-- ==== Sys2Proof/Word.lean ====
section
/-! DEFINITION. The word types of the engine: every width is one the spec states (spec 00 R11, 10 R20, 30 R90). -/

namespace Sys2Proof

/-- One line level. -/
abbrev Bit := BitVec 1

/-- Half of a byte: what the four data lines carry (R18, R91). -/
abbrev Nibble := BitVec 4

/-- A command byte or a character code (R93, R95). -/
abbrev Byte := BitVec 8

/-- A latch word, `rs` then the nibble (R91). -/
abbrev Latch := BitVec 5

/-- A byte frame, `rs` then the byte (R92). -/
abbrev Frame := BitVec 9

/-- An operation word, `op` then `imm` (R96). -/
abbrev OpWord := BitVec 12

/-- A display address (R62). -/
abbrev DispAddr := BitVec 7

/-- A word address of the program store: the width of `pc` (R36). -/
abbrev StoreAddr := BitVec 4

end Sys2Proof
end

