-- ==== Sys2Proof/Config.lean ====
section
/-! DEFINITION. What is fixed for one engine: the named constants of spec 00 R8 and 70 R257, the parameters the spec
leaves OPEN, and the free answers of the converter (42 R166). -/

namespace Sys2Proof.Config

/-- Register-select level of a command byte (R8, R28). DESIGN CHOICE of the spec (D4): unsafe if the wiring is inverted. -/
def rsCmd : Bit := 0#1

/-- Register-select level of a data byte (R8, R28; D4). -/
def rsData : Bit := 1#1

/-- Level of the liveness line for "off" (R8, R31; D26). -/
def liveOff : Bit := 0#1

/-- Level of the liveness line for "on" (R8, R31; D26). -/
def liveOn : Bit := 1#1

/-- The data byte of a blank character (R8, R95; D12). -/
def blank : Byte := 0x20#8

/-- Display address at which line 2 begins, 40 decimal (R8, R62; D16). -/
def line2Addr : DispAddr := 40#7

/-- Power-on settle before the first strobe, at least this many microseconds (R257). -/
def tPowerOn : Nat := 150000

/-- Spacing of the three reset strobes (R257). -/
def tResetGap : Nat := 5000

/-- Hold time of a strobe pulse (R257). -/
def tStrobeHold : Nat := 20000

/-- Settle time after every full byte transfer (R257). -/
def tByteSettle : Nat := 100

/-- Settle time after the clear command (R257). -/
def tClear : Nat := 2000

/-- The blocking wait of main-loop step 7 (R257). -/
def tRefresh : Nat := 1000000

/-- The parameters of R8 that the spec leaves OPEN, and `REF_MV`, which the formatter takes as an argument (90 C6).
They are arguments of the model (R9, R42) and stand in the state only because a step takes nothing else. -/
structure Params where
  /-- `REF_MV`, the reference voltage in millivolts. -/
  refMv : BitVec 16
  /-- `ADC_BITS`, the width of the converter's result. -/
  adcBits : Nat
  /-- `ADC_CHANNEL`, the number of the one analog input. -/
  adcChannel : Nat
  /-- `N_COLS`, the visible character positions of one line. -/
  nCols : Nat
  /-- `RESET_NIBBLE`, on the data lines during the three reset strobes. -/
  resetNibble : Nibble
  /-- `T_ACQ`, the wait between configuring the converter and starting it. -/
  tAcq : Nat
  deriving DecidableEq, Repr

/-- The values and defaults of R8, those of the spec's own test vectors. -/
def defaults : Params :=
  { refMv := 5000#16, adcBits := 10, adcChannel := 0, nCols := 16, resetNibble := 0x3#4, tAcq := 0 }

/-- The constraints R8 puts on the open parameters. -/
def Params.wf (p : Params) : Bool :=
  decide (8 ≤ p.adcBits) && decide (7 ≤ p.nCols) && decide (p.nCols ≤ line2Addr.toNat)

/-- FREE VALUE (R166 b): what the converter does at its n-th opportunity to move while it is busy. `none`: it stays busy;
`some v`: the conversion completes with the value `v`, of which `ADC_BITS` bits count. No body: nothing is known of it. -/
opaque conversion : Nat → Option Nat

end Sys2Proof.Config
end

