-- ==== Sys2Proof/Syntax.lean ====
section
/-! DEFINITION. The instruction set: one constructor for each of the 32 rows of spec/opcode_table.json. -/

namespace Sys2Proof

/-- The rows of the opcode table, in its order. Register numbers do not exist (R21, R96); every operand has exactly the
width its encoding gives it (R98). -/
inductive Instr where
  -- operation words of the program store (R97)
  | init
  | clear
  | goto (a : DispAddr)
  | wcmd (b : Byte)
  | wdat (b : Byte)
  | clr2
  | sample
  | format
  | render
  | live (v : Bit)
  | wait
  | jmp (t : StoreAddr)
  -- pseudo-operations (R103)
  | puts (text : List Byte)
  | liveoff
  | liveon
  | goto2
  | loop
  -- reserved operation words (R99), with their don't-care immediate
  | reserved0 (imm : Byte)
  | reservedD (imm : Byte)
  | reservedE (imm : Byte)
  | reservedF (imm : Byte)
  -- byte frames: what the display controller executes (R93 to R95)
  | lcdClearHome
  | lcdMode4Init
  | lcdEntryInc
  | lcdDisplayOff
  | lcdDisplayOn
  | lcdFunc4Bit2Line
  | lcdSetAddr (addr : DispAddr)
  | lcdData (c : Byte)
  -- micro-operations (R120 to R122)
  | nib (n : Nibble)
  | wbyte (rs : Bit) (b : Byte)
  | strobe
  deriving DecidableEq, Repr

/-- Is it one of the reserved words, which are illegal operations (R99)? -/
def Instr.isReserved : Instr → Bool
  | .init => false
  | .clear => false
  | .goto _ => false
  | .wcmd _ => false
  | .wdat _ => false
  | .clr2 => false
  | .sample => false
  | .format => false
  | .render => false
  | .live _ => false
  | .wait => false
  | .jmp _ => false
  | .puts _ => false
  | .liveoff => false
  | .liveon => false
  | .goto2 => false
  | .loop => false
  | .reserved0 _ => true
  | .reservedD _ => true
  | .reservedE _ => true
  | .reservedF _ => true
  | .lcdClearHome => false
  | .lcdMode4Init => false
  | .lcdEntryInc => false
  | .lcdDisplayOff => false
  | .lcdDisplayOn => false
  | .lcdFunc4Bit2Line => false
  | .lcdSetAddr _ => false
  | .lcdData _ => false
  | .nib _ => false
  | .wbyte _ _ => false
  | .strobe => false

end Sys2Proof
end

