-- ==== Sys2Proof/WellFormed.lean ====
section
/-! DEFINITION. The checks on an instruction that its field types do not make already. -/

namespace Sys2Proof

/-- The number of words of the program store, `ROM_WORDS` (R61). -/
def storeWords : Nat := 16

/-- The one check: the words of a `PUTS` must fit into the program store (R61, R103). Every other operand is held in
exactly the bits its encoding has (R98), so every value of it is well formed. -/
def Instr.wellFormed : Instr → Bool
  | .puts text => decide (text.length ≤ storeWords)
  | .init => true
  | .clear => true
  | .goto _ => true
  | .wcmd _ => true
  | .wdat _ => true
  | .clr2 => true
  | .sample => true
  | .format => true
  | .render => true
  | .live _ => true
  | .wait => true
  | .jmp _ => true
  | .liveoff => true
  | .liveon => true
  | .goto2 => true
  | .loop => true
  | .reserved0 _ => true
  | .reservedD _ => true
  | .reservedE _ => true
  | .reservedF _ => true
  | .lcdClearHome => true
  | .lcdMode4Init => true
  | .lcdEntryInc => true
  | .lcdDisplayOff => true
  | .lcdDisplayOn => true
  | .lcdFunc4Bit2Line => true
  | .lcdSetAddr _ => true
  | .lcdData _ => true
  | .nib _ => true
  | .wbyte _ _ => true
  | .strobe => true

end Sys2Proof
end

