-- ==== Sys2Proof/Decode.lean ====
section
/-! DEFINITION. Decoding and encoding of the four layers of spec 30 R90: operation words (R96 to R101), byte frames (R92 to
R95), latch words (R91), and the pseudo-operations (R103). -/

namespace Sys2Proof

/-- Why a word is no instruction. -/
inductive DecodeError where
  /-- R99: an operation without operand whose `imm` is not zero. -/
  | operandNotZero
  /-- R99: `GOTO` with `imm[7] = 1`. -/
  | gotoAddressTooWide
  /-- R99: `LIVE` with `imm[7:1]` not zero. -/
  | liveLevelTooWide
  /-- R99: `JMP` with `imm[7:4]` not zero. -/
  | jumpTargetTooWide
  /-- R86: a command frame with `b[7] = 0` that the document does not define. -/
  | undefinedCommand
  deriving DecidableEq, Repr

/-- `op = w[11:8]` (R96). -/
def opField (w : OpWord) : BitVec 4 := w.extractLsb' 8 4

/-- `imm = w[7:0]` (R96). -/
def immField (w : OpWord) : Byte := w.extractLsb' 0 8

/-- `GOTO`: `a = imm[6:0]` (R98). -/
def addrField (w : OpWord) : DispAddr := w.extractLsb' 0 7

/-- `LIVE`: `v = imm[0]` (R98). -/
def levelField (w : OpWord) : Bit := w.extractLsb' 0 1

/-- `JMP`: `t = imm[3:0]` (R98). -/
def targetField (w : OpWord) : StoreAddr := w.extractLsb' 0 4

/-- One row of the operation table: the words it takes and the operation it makes of one. -/
structure OpRow where
  pattern : OpWord
  mask : OpWord
  build : OpWord → Instr

/-- R97: "a word `w` is the operation when `w & mask = match`". -/
def OpRow.takes (r : OpRow) (w : OpWord) : Bool := w &&& r.mask == r.pattern

/-- The operation table of R97, `match` and `mask` as it gives them, and after it the reserved rows of R99. -/
def opTable : List OpRow :=
  [ ⟨0x100#12, 0xFFF#12, fun _ => .init⟩,
    ⟨0x200#12, 0xFFF#12, fun _ => .clear⟩,
    ⟨0x300#12, 0xF80#12, fun w => .goto (addrField w)⟩,
    ⟨0x400#12, 0xF00#12, fun w => .wcmd (immField w)⟩,
    ⟨0x500#12, 0xF00#12, fun w => .wdat (immField w)⟩,
    ⟨0x600#12, 0xFFF#12, fun _ => .clr2⟩,
    ⟨0x700#12, 0xFFF#12, fun _ => .sample⟩,
    ⟨0x800#12, 0xFFF#12, fun _ => .format⟩,
    ⟨0x900#12, 0xFFF#12, fun _ => .render⟩,
    ⟨0xA00#12, 0xFFE#12, fun w => .live (levelField w)⟩,
    ⟨0xB00#12, 0xFFF#12, fun _ => .wait⟩,
    ⟨0xC00#12, 0xFF0#12, fun w => .jmp (targetField w)⟩,
    ⟨0x000#12, 0xF00#12, fun w => .reserved0 (immField w)⟩,
    ⟨0xD00#12, 0xF00#12, fun w => .reservedD (immField w)⟩,
    ⟨0xE00#12, 0xF00#12, fun w => .reservedE (immField w)⟩,
    ⟨0xF00#12, 0xF00#12, fun w => .reservedF (immField w)⟩ ]

/-- The instruction of the first row of a table that takes the word. -/
def findRow (w : OpWord) : List OpRow → Option Instr
  | [] => none
  | r :: rows => if r.takes w then some (r.build w) else findRow w rows

/-- The name of the fault of a word that no row takes (R99). -/
def illegalBecause (w : OpWord) : DecodeError :=
  if opField w = 0x3#4 then .gotoAddressTooWide
  else if opField w = 0xA#4 then .liveLevelTooWide
  else if opField w = 0xC#4 then .jumpTargetTooWide
  else .operandNotZero

/-- Decoding of an operation word, total on the 4096 values (R101). A reserved word decodes to its table row, whose
meaning is the refusal `illegal operation word` (R99). -/
def decodeOp (w : OpWord) : Except DecodeError Instr :=
  match findRow w opTable with
  | some i => .ok i
  | none => .error (illegalBecause w)

/-- R99: a word is legal when it decodes to an operation that is not reserved. -/
def isLegal (w : OpWord) : Bool :=
  match decodeOp w with
  | .ok i => !i.isReserved
  | .error _ => false

/-- The byte `b[7:0]` of a frame (R92). -/
def frameByte (f : Frame) : Byte := f.extractLsb' 0 8

/-- The register-select level of a frame, its bit 8 (R92). -/
def frameRs (f : Frame) : Bit := f.extractLsb' 8 1

/-- The address `b[6:0]` of a set-cursor command (R94). -/
def byteAddr (b : Byte) : DispAddr := b.extractLsb' 0 7

/-- What a byte frame is to the display controller (R93 to R95). `rs = 1` is a data byte of any code; a command the
document does not define is refused by name. -/
def decodeFrame (f : Frame) : Except DecodeError Instr :=
  if frameRs f = Config.rsData then .ok (.lcdData (frameByte f))
  else if (frameByte f).msb then .ok (.lcdSetAddr (byteAddr (frameByte f)))
  else if frameByte f = 0x01#8 then .ok .lcdClearHome
  else if frameByte f = 0x02#8 then .ok .lcdMode4Init
  else if frameByte f = 0x06#8 then .ok .lcdEntryInc
  else if frameByte f = 0x08#8 then .ok .lcdDisplayOff
  else if frameByte f = 0x0C#8 then .ok .lcdDisplayOn
  else if frameByte f = 0x28#8 then .ok .lcdFunc4Bit2Line
  else .error .undefinedCommand

/-- A latch word is a register-select level and one nibble transfer (R91, R121). -/
def decodeLatch (l : Latch) : Bit × Instr := (l.extractLsb' 4 1, .nib (l.extractLsb' 0 4))

/-- The operation word `{op, imm}` (R96). -/
def opWord (op : BitVec 4) (imm : Byte) : OpWord := op ++ imm

/-- The words of an instruction in the program store (R97, R103). Frames and micro-operations have none. -/
def encode : Instr → List OpWord
  | .init => [opWord 0x1#4 0#8]
  | .clear => [opWord 0x2#4 0#8]
  | .goto a => [opWord 0x3#4 (0#1 ++ a)]
  | .wcmd b => [opWord 0x4#4 b]
  | .wdat b => [opWord 0x5#4 b]
  | .clr2 => [opWord 0x6#4 0#8]
  | .sample => [opWord 0x7#4 0#8]
  | .format => [opWord 0x8#4 0#8]
  | .render => [opWord 0x9#4 0#8]
  | .live v => [opWord 0xA#4 (0#7 ++ v)]
  | .wait => [opWord 0xB#4 0#8]
  | .jmp t => [opWord 0xC#4 (0#4 ++ t)]
  | .puts text => text.map (opWord 0x5#4)
  | .liveoff => [opWord 0xA#4 (0#7 ++ Config.liveOff)]
  | .liveon => [opWord 0xA#4 (0#7 ++ Config.liveOn)]
  | .goto2 => [opWord 0x3#4 (0#1 ++ Config.line2Addr)]
  | .loop => [opWord 0xC#4 (0#4 ++ 1#4)]
  | .reserved0 imm => [opWord 0x0#4 imm]
  | .reservedD imm => [opWord 0xD#4 imm]
  | .reservedE imm => [opWord 0xE#4 imm]
  | .reservedF imm => [opWord 0xF#4 imm]
  | .lcdClearHome => []
  | .lcdMode4Init => []
  | .lcdEntryInc => []
  | .lcdDisplayOff => []
  | .lcdDisplayOn => []
  | .lcdFunc4Bit2Line => []
  | .lcdSetAddr _ => []
  | .lcdData _ => []
  | .nib _ => []
  | .wbyte _ _ => []
  | .strobe => []

/-- The operations a pseudo-operation expands to (R103); any other instruction that has words stands for itself. -/
def expand : Instr → List Instr
  | .puts text => text.map .wdat
  | .liveoff => [.live Config.liveOff]
  | .liveon => [.live Config.liveOn]
  | .goto2 => [.goto Config.line2Addr]
  | .loop => [.jmp 1#4]
  | .init => [.init]
  | .clear => [.clear]
  | .goto a => [.goto a]
  | .wcmd b => [.wcmd b]
  | .wdat b => [.wdat b]
  | .clr2 => [.clr2]
  | .sample => [.sample]
  | .format => [.format]
  | .render => [.render]
  | .live v => [.live v]
  | .wait => [.wait]
  | .jmp t => [.jmp t]
  | .reserved0 imm => [.reserved0 imm]
  | .reservedD imm => [.reservedD imm]
  | .reservedE imm => [.reservedE imm]
  | .reservedF imm => [.reservedF imm]
  | .lcdClearHome => []
  | .lcdMode4Init => []
  | .lcdEntryInc => []
  | .lcdDisplayOff => []
  | .lcdDisplayOn => []
  | .lcdFunc4Bit2Line => []
  | .lcdSetAddr _ => []
  | .lcdData _ => []
  | .nib _ => []
  | .wbyte _ _ => []
  | .strobe => []

/-- The byte frame of an instruction of the display controller, or of a byte transfer (R92 to R95). -/
def encodeFrame : Instr → Option Frame
  | .lcdClearHome => some (Config.rsCmd ++ 0x01#8)
  | .lcdMode4Init => some (Config.rsCmd ++ 0x02#8)
  | .lcdEntryInc => some (Config.rsCmd ++ 0x06#8)
  | .lcdDisplayOff => some (Config.rsCmd ++ 0x08#8)
  | .lcdDisplayOn => some (Config.rsCmd ++ 0x0C#8)
  | .lcdFunc4Bit2Line => some (Config.rsCmd ++ 0x28#8)
  | .lcdSetAddr addr => some (Config.rsCmd ++ (1#1 ++ addr : Byte))
  | .lcdData c => some (Config.rsData ++ c)
  | .wbyte rs b => some (rs ++ b)
  | .init => none
  | .clear => none
  | .goto _ => none
  | .wcmd _ => none
  | .wdat _ => none
  | .clr2 => none
  | .sample => none
  | .format => none
  | .render => none
  | .live _ => none
  | .wait => none
  | .jmp _ => none
  | .puts _ => none
  | .liveoff => none
  | .liveon => none
  | .goto2 => none
  | .loop => none
  | .reserved0 _ => none
  | .reservedD _ => none
  | .reservedE _ => none
  | .reservedF _ => none
  | .nib _ => none
  | .strobe => none

/-- The latch word `{RS, n}` of a nibble transfer at the register-select level `rs` (R91, R121). -/
def encodeLatch (rs : Bit) (n : Nibble) : Latch := rs ++ n

/-- The instruction the decoder reads from an instruction whose bits are `w`, numbered as the opcode table numbers them.
A table row of 12 bits is an operation word; one of exactly 9 bits is a byte frame, one of at most 8 a latch word. What
`step` fetches is an operation word, so every other width is read as one. A number too large for its layer is refused, and
so is a row of no bits: `STROBE` has no encoding (R97). -/
def decodeTableWord (nbits w : Nat) : Option Instr :=
  if nbits = 0 then none
  else if nbits ≤ 8 then
    if w < 32 then some (decodeLatch (BitVec.ofNat 5 w)).2 else none
  else if nbits = 9 then
    if w < 512 then (decodeFrame (BitVec.ofNat 9 w)).toOption else none
  else
    if w < 4096 then (decodeOp (BitVec.ofNat 12 w)).toOption else none

end Sys2Proof
end

