-- ==== Sys2Proof/Machine/State.lean ====
section
/-! DEFINITION. The state of the engine, of the converter and of the display observer as plain data (spec 10 R20, 20 R80,
42 R166), the reasons a step can stop (60 R215, R217), and the state after reset (10 R44, 70 R245). -/

namespace Sys2Proof.Machine

/-- The driver's state machine (R38, R145). -/
inductive DrvState where
  | uninitialized
  | ready
  deriving DecidableEq, Repr

/-- The reference of the converter: one value (R32). -/
inductive AdcRef where
  | supply
  deriving DecidableEq, Repr

/-- The converter, `CONV` of R166: what it is doing, and the value of a completed conversion. -/
inductive Conv where
  | idle
  | busy
  | done (v : Nat)
  deriving DecidableEq, Repr

/-- The model's own: where the engine stands inside `SAMPLE`, whose every poll is one step (R163). -/
inductive SamplePhase where
  /-- No `SAMPLE` is under way. -/
  | idle
  /-- A conversion was started and its completion is awaited. -/
  | polling
  deriving DecidableEq, Repr

/-- The alphabet of the trace (R14). Times are microseconds and lower bounds (R10). -/
inductive Event where
  | rs (b : Bit)
  | d (n : Nibble)
  | e (b : Bit)
  | live (b : Bit)
  | delay (t : Nat)
  | adcCfg (ch : Nat) (ref : AdcRef)
  | adcStart
  | adcPoll (b : Bit)
  | adcRead (v : Nat)
  deriving DecidableEq, Repr

/-- The display's character memory: (address, code) pairs, addresses strictly rising and below 128. -/
abbrev Memory := List Host.Cell

/-- The reference observer of the display controller (R80). -/
structure Display where
  /-- `ACTIVE`: the observer follows the controller. -/
  active : Bool
  /-- `CUR`: the cursor address, `none` when unknown. -/
  cur : Option DispAddr
  /-- `CELL`: an unlisted address holds `none`, unknown. -/
  cells : Memory
  /-- `ON`: the display is switched on. -/
  on : Bool
  /-- `POISON`: the visual result has become undefined. -/
  poison : Bool
  deriving DecidableEq, Repr

/-- Everything the spec gives the machine (R20), its environment (R80, R166) and its arguments (R42). -/
structure State where
  /-- The parameters of R8: an argument of the model (R42), changed by no step. -/
  cfg : Config.Params
  /-- The program store (R61): an argument of the model (R42), changed by no step. -/
  rom : Vector OpWord 16
  /-- `RAW` (R22); `none` is the spec's own "holds no value" (R12, R26). -/
  raw : Option (BitVec 8)
  /-- `SCALED` (R23). -/
  scaled : Option (BitVec 16)
  /-- `ONES` (R24). -/
  ones : Option (BitVec 4)
  /-- `DECM` (R25). -/
  decm : Option (BitVec 10)
  /-- `RS`, the register-select latch (R28). -/
  rs : Bit
  /-- `E`, the strobe latch (R29). -/
  e : Bit
  /-- `D`, the data latch (R30). -/
  d : Nibble
  /-- `LIVE`, the liveness latch (R31). -/
  live : Bit
  /-- `ADC_CH` (R32). -/
  adcCh : Nat
  /-- `ADC_REF` (R32). -/
  adcRef : AdcRef
  /-- `pc` (R36). -/
  pc : StoreAddr
  /-- `DRV_STATE` (R38). -/
  drv : DrvState
  /-- The model's own field: the step of `SAMPLE` (R163). -/
  phase : SamplePhase
  /-- `CONV`, the converter (R166). -/
  conv : Conv
  /-- The model's own field: which of the converter's free choices comes next. -/
  env : Nat
  /-- The display observer (R80). -/
  disp : Display
  /-- The trace (R43), first event first. -/
  trace : List Event
  deriving DecidableEq, Repr

/-- There is no fault: "The engine raises no synchronous exception" (R215), and nothing in its address spaces is absent.
No constructor, so that no step can be said to end in one. -/
inductive Fault where
  deriving DecidableEq, Repr

/-- The reasons a step is refused: the closed list of R217. -/
inductive Refusal where
  /-- An instruction without a meaning in the model, raised by a refused arm of `exec`. Safe: the model stops. No arm
  raises it now. -/
  | notModelled (mnemonic : String)
  /-- `illegal operation word` (R99, R195): raised by `step` on a word no row takes, and by the reserved rows. Safe. -/
  | illegalOperationWord
  /-- `pc past end of program store` (R36): raised when an operation other than a jump completes at `pc = 15`; `last` is
  the state with everything the operation did but the advance of `pc` (R217). Safe. -/
  | pcPastEndOfProgramStore (last : State)
  /-- `display operation before INIT` (R127): raised by the display operations while the driver is uninitialized. Safe. -/
  | displayOperationBeforeInit
  /-- `second INIT` (R127): raised by `INIT` when the driver is ready. Safe. -/
  | secondInit
  /-- `read of unwritten register` (R26, R217): raised by `FORMAT` when `RAW` is `none` (R175) and by `RENDER` when
  `ONES` or `DECM` is `none` (R183). Safe. -/
  | readOfUnwrittenRegister
  deriving DecidableEq, Repr

/-- What one operation or one step ends in. -/
abbrev Result := Host.Outcome State Fault Refusal

/-- The hardwired content of the program store (R200). -/
def hardwired : Vector OpWord 16 :=
  #v[0x100#12, 0xA00#12, 0x600#12, 0x700#12, 0xA01#12, 0x800#12, 0x900#12, 0xB00#12, 0xC01#12,
     0x000#12, 0x000#12, 0x000#12, 0x000#12, 0x000#12, 0x000#12, 0x000#12]

/-- The observer after reset (R44, R80). -/
def Display.reset : Display :=
  { active := false, cur := none, cells := [], on := false, poison := false }

/-- The machine right after reset (R44, R245). `adcCh`, `adcRef` and `conv` have no reset value in the spec: the values
here are the model's (DESIGN CHOICE, log entry 2). `phase` and `env` are the model's own fields. -/
def State.reset : State :=
  { cfg := Config.defaults
    rom := hardwired
    raw := none
    scaled := none
    ones := none
    decm := none
    rs := 0#1
    e := 1#1
    d := 0x0#4
    live := 0#1
    adcCh := 0
    adcRef := .supply
    pc := 0#4
    drv := .uninitialized
    phase := .idle
    conv := .idle
    env := 0
    disp := Display.reset
    trace := [] }

end Sys2Proof.Machine
end

