-- ==== Sys2Proof/Machine/Memory.lean ====
section
/-! DEFINITION. The display's character memory (spec 20 R60, R80): reading, writing and blanking cells, in one canonical
form. -/

namespace Sys2Proof.Machine

/-- The number of cells: a display address has 7 bits (R62). -/
def Memory.size : Nat := 128

/-- What an unlisted address reads as: `none`, the code is unknown (R80). -/
def Memory.unlisted : Option Byte := none

/-- The code at an address. -/
def Memory.read : Memory → Nat → Option Byte
  | [], _ => Memory.unlisted
  | (b, v) :: m, a => if a = b then some v else Memory.read m a

/-- The memory with one code stored; the addresses stay in order and are listed once. -/
def Memory.write (a : Nat) (v : Byte) : Memory → Memory
  | [] => [(a, v)]
  | (b, w) :: m =>
    if a < b then (a, v) :: (b, w) :: m
    else if a = b then (a, v) :: m
    else (b, w) :: Memory.write a v m

/-- Every cell holding the same code (R82). -/
def Memory.fill (v : Byte) : Memory := (List.range Memory.size).map (fun a => (a, v))

/-- The listed addresses rise strictly from `lo` on and stay below 128. -/
def Memory.rises : Nat → Memory → Bool
  | _, [] => true
  | lo, (a, _) :: m => decide (lo ≤ a) && decide (a < Memory.size) && Memory.rises (a + 1) m

/-- The canonical form. No entry can equal what an unlisted address reads as, which is no code at all. -/
def Memory.wf (m : Memory) : Bool := Memory.rises 0 m

end Sys2Proof.Machine
end

