-- ==== Sys2Proof/Machine/Display.lean ====
section
/-! DEFINITION. The reference observer of the display controller (spec 20 R80 to R87): what each command or data byte does
to it. -/

namespace Sys2Proof.Machine

/-- The visible addresses: position `i` of line 1 is `i`, of line 2 `LINE2_ADDR + i`, with `i < N_COLS` (R62). -/
def visible (nCols : Nat) (a : DispAddr) : Bool :=
  decide (a.toNat < nCols)
    || (decide (Config.line2Addr.toNat ≤ a.toNat) && decide (a.toNat < Config.line2Addr.toNat + nCols))

/-- The address a data byte is stored at: the cursor, where it is known and visible (R84). -/
def Display.target (nCols : Nat) (d : Display) : Option DispAddr :=
  match d.cur with
  | some a => if visible nCols a then some a else none
  | none => none

/-- The cursor after a data byte at `a`: one further, unknown past the last address (R84). -/
def cursorAfter (a : DispAddr) : Option DispAddr := if a.toNat < 127 then some (a + 1#7) else none

/-- `XFER(1, c)`, a data byte (R84). -/
def Display.putData (nCols : Nat) (c : Byte) (d : Display) : Display :=
  match d.target nCols with
  | some a => { d with cells := Memory.write a.toNat c d.cells, cur := cursorAfter a }
  | none => { d with poison := true }

/-- `XFER(0, 0x01)`, "clear+home" (R82). -/
def Display.clearHome (d : Display) : Display :=
  { d with cells := Memory.fill Config.blank, cur := some 0#7 }

/-- `XFER(0, b)` with `b[7] = 1`, "set cursor address" (R83). -/
def Display.setCursor (a : DispAddr) (d : Display) : Display := { d with cur := some a }

/-- `XFER(0, 0x0C)` and `XFER(0, 0x08)`: the display is switched on or off (R85). -/
def Display.switch (on : Bool) (d : Display) : Display := { d with on := on }

/-- A command that restates what `INIT` set (R85). -/
def Display.restate (d : Display) : Display := d

/-- A command whose effect is not in the source: the visual result is undefined from here on (R85, R86). -/
def Display.undefinedEffect (d : Display) : Display := { d with poison := true }

/-- The observer's answer to a command byte (R82, R83, R85, R86). -/
def Display.command (b : Byte) (d : Display) : Display :=
  if b.msb then d.setCursor (b.extractLsb' 0 7)
  else if b = 0x01#8 then d.clearHome
  else if b = 0x02#8 then d.undefinedEffect
  else if b = 0x06#8 then d.restate
  else if b = 0x08#8 then d.switch false
  else if b = 0x0C#8 then d.switch true
  else if b = 0x28#8 then d.restate
  else d.undefinedEffect

/-- The observer's answer to a transfer `XFER(rs, b)`: none while it is not active (R81). -/
def Display.take (nCols : Nat) (rs : Bit) (b : Byte) (d : Display) : Display :=
  if d.active then (if rs = Config.rsData then d.putData nCols b else d.command b) else d

/-- What the completion of `INIT` does to the observer (R81): it starts, with cursor and memory unknown. -/
def Display.start (d : Display) : Display :=
  { d with active := true, on := true, cur := none, cells := [] }

/-- The code at a display address (R80). -/
def Display.cell (d : Display) (a : Nat) : Option Byte := Memory.read d.cells a

end Sys2Proof.Machine
end

