-- ==== Sys2Proof/Machine/Flags.lean ====
section
/-! DEFINITION. The flags of spec 10 R37: the driver state as a precondition (40 R127), and the validity of a data register
(10 R26). There are no condition codes. -/

namespace Sys2Proof.Machine

/-- A display operation runs when the driver is ready; otherwise it is refused (R127). -/
def ifReady (s : State) (r : Result) : Result :=
  match s.drv with
  | .ready => r
  | .uninitialized => .refused .displayOperationBeforeInit

/-- `INIT` runs while the driver is uninitialized; otherwise it is refused (R127). -/
def ifUninitialized (s : State) (r : Result) : Result :=
  match s.drv with
  | .uninitialized => r
  | .ready => .refused .secondInit

/-- The value of a data register goes on to `k`; a register that holds `none` is refused, as the spec says of such a read
(R12, R26) and of its two readers (R175, R183), in its closed list of refusals (R217). -/
def withValue {α : Type} (reg : Option α) (k : α → Result) : Result :=
  match reg with
  | some v => k v
  | none => .refused .readOfUnwrittenRegister

end Sys2Proof.Machine
end

