-- ==== Sys2Proof/Machine/Operands.lean ====
section
/-! DEFINITION. The operand forms (spec 30 R94, R95, R98): nibbles of a byte, the set-cursor byte, digits and text, the part
of the converter's result that is used. -/

namespace Sys2Proof.Machine

/-- `b[7:4]`, sent first (R64). -/
def hiNibble (b : Byte) : Nibble := b.extractLsb' 4 4

/-- `b[3:0]`, sent second (R64). -/
def loNibble (b : Byte) : Nibble := b.extractLsb' 0 4

/-- The set-cursor command byte `0x80 | a` (R94). -/
def setCursorByte (a : DispAddr) : Byte := 0x80#8 ||| a.zeroExtend 8

/-- A decimal digit is the byte `0x30 + d` (R95). -/
def digitByte (d : Nat) : Byte := 0x30#8 + BitVec.ofNat 8 d

/-- The decimal point, `0x2E` (R95). -/
def pointByte : Byte := 0x2E#8

/-- The space before the unit, `0x20` (R181). -/
def spaceByte : Byte := 0x20#8

/-- The letter V, `0x56` (R95). -/
def voltByte : Byte := 0x56#8

/-- The three digits of `DECM`, leading zeros kept (R181, R182). -/
def decmText (decm : BitVec 10) : List Byte :=
  [digitByte (decm.toNat / 100), digitByte (decm.toNat / 10 % 10), digitByte (decm.toNat % 10)]

/-- The seven characters of the voltage (R181). -/
def text7 (ones : BitVec 4) (decm : BitVec 10) : List Byte :=
  [digitByte ones.toNat, pointByte] ++ decmText decm ++ [spaceByte, voltByte]

/-- `ADC_RESULT[ADC_BITS-1 : ADC_BITS-8]`, the most-significant 8 bits of the result (R67, R104). -/
def topByte (adcBits v : Nat) : BitVec 8 := BitVec.ofNat 8 (v >>> (adcBits - 8))

/-- The scaled value in millivolts: the exact 24-bit product, its low 8 bits removed (R175, R176). -/
def scale (raw : BitVec 8) (refMv : BitVec 16) : BitVec 16 :=
  (raw.zeroExtend 24 * refMv.zeroExtend 24).extractLsb' 8 16

/-- The ones digit, `(scaled / 1000) mod 10` (R177). -/
def onesOf (scaled : BitVec 16) : BitVec 4 := BitVec.ofNat 4 (scaled.toNat / 1000 % 10)

/-- The fraction, `scaled mod 1000` (R178). -/
def decmOf (scaled : BitVec 16) : BitVec 10 := BitVec.ofNat 10 (scaled.toNat % 1000)

end Sys2Proof.Machine
end

