-- ==== Sys2Proof/Machine/Ops.lean ====
section
/-! DEFINITION. The operations the meanings share: fetching a word, emitting an event, driving a latch, the strobe, nibble
and byte transfers (spec 40 R120 to R122), sending text (41 R143), advancing `pc` (44 R196). The engine takes no exception
and returns from none (60 R215, R220, R221), so no such operation exists. -/

namespace Sys2Proof.Machine

/-- `MemRead(pc, 1)`, the operation word at `pc` (R61, R195). -/
def fetchWord (s : State) : OpWord := s.rom[s.pc.toNat]'s.pc.isLt

/-- `emit` of events in order: the trace only grows (R14, R43). -/
def emit (events : List Event) (s : State) : State := { s with trace := s.trace ++ events }

/-- The liveness line is driven (R31). -/
def driveLive (b : Bit) (s : State) : State := { s with live := b, trace := s.trace ++ [.live b] }

/-- The engine blocks for at least `t` microseconds (R14). -/
def delay (t : Nat) (s : State) : State := emit [.delay t] s

/-- The events of one strobe pulse: low, held, high (R120). -/
def strobeEvents : List Event := [.e 0#1, .delay Config.tStrobeHold, .e 1#1]

/-- The events of one nibble transfer: the data latch is loaded, then one pulse (R121). -/
def nibbleEvents (n : Nibble) : List Event := .d n :: strobeEvents

/-- The events of one byte transfer: the register-select line, the high nibble, the low nibble, the settle (R122). -/
def byteEvents (rs : Bit) (b : Byte) : List Event :=
  .rs rs :: (nibbleEvents (hiNibble b) ++ nibbleEvents (loNibble b) ++ [.delay Config.tByteSettle])

/-- `STROBE` (R120): the line rests high after it. -/
def strobe (s : State) : State := { s with e := 1#1, trace := s.trace ++ strobeEvents }

/-- `NIB(n)` (R121). -/
def nibble (n : Nibble) (s : State) : State := { s with d := n, e := 1#1, trace := s.trace ++ nibbleEvents n }

/-- The reaction of the observer to something the controller receives, while it is active (R81). -/
def observe (f : Display → Display) (s : State) : State :=
  if s.disp.active then { s with disp := f s.disp } else s

/-- `WBYTE(rs, b)` (R122): "After `WBYTE`: `RS = rs`, `D = b[3:0]`, `E = 1`". The transfer `XFER(rs, b)` it produces
reaches the observer (R80). -/
def writeByte (rs : Bit) (b : Byte) (s : State) : State :=
  { s with rs := rs, d := loNibble b, e := 1#1, trace := s.trace ++ byteEvents rs b,
           disp := s.disp.take s.cfg.nCols rs b }

/-- `PUTS` as the internal routine of `CLR2` and `RENDER` (R143): the characters in order, `pc` untouched. -/
def sendText : List Byte → State → State
  | [], s => s
  | c :: text, s => sendText text (writeByte Config.rsData c s)

/-- Command bytes in order. -/
def sendCommands : List Byte → State → State
  | [], s => s
  | b :: bytes, s => sendCommands bytes (writeByte Config.rsCmd b s)

/-- `pc <- pc + 1`, refused instead of wrapping, after everything else the operation did (R36, R196, R217). -/
def advance (s : State) : Result :=
  if s.pc = 15#4 then .refused (.pcPastEndOfProgramStore s) else .next { s with pc := s.pc + 1#4 }

end Sys2Proof.Machine
end

