-- ==== Sys2Proof/Machine/Controller.lean ====
section
/-! DEFINITION. The instructions of the display controller: what one byte frame does when the controller takes it, as the
reference observer records it (spec 20 R82 to R86). The engine's own state is untouched. -/

namespace Sys2Proof.Machine

/-- `0x01`, "clear+home" (R82). -/
def execLcdClearHome (s : State) : Result := .next (observe Display.clearHome s)

/-- `0x02`, "4-bit mode init": its effect after `INIT` is not in the source (R85). -/
def execLcdMode4Init (s : State) : Result := .next (observe Display.undefinedEffect s)

/-- `0x06`, "entry mode, auto-increment" (R85). -/
def execLcdEntryInc (s : State) : Result := .next (observe Display.restate s)

/-- `0x08`, "display off" (R85). -/
def execLcdDisplayOff (s : State) : Result := .next (observe (Display.switch false) s)

/-- `0x0C`, "display on, cursor/blink off" (R85). -/
def execLcdDisplayOn (s : State) : Result := .next (observe (Display.switch true) s)

/-- `0x28`, "4-bit mode / dual-line / 5×8 font" (R85). -/
def execLcdFunc4Bit2Line (s : State) : Result := .next (observe Display.restate s)

/-- `0x80 + addr`, "set cursor address" (R83). -/
def execLcdSetAddr (addr : DispAddr) (s : State) : Result := .next (observe (Display.setCursor addr) s)

/-- A data byte (R84). -/
def execLcdData (c : Byte) (s : State) : Result := .next (observe (Display.putData s.cfg.nCols c) s)

end Sys2Proof.Machine
end

