-- ==== Sys2Proof/Machine/Formatter.lean ====
section
/-! DEFINITION. The fixed-point formatter: FORMAT and RENDER (spec 43). -/

namespace Sys2Proof.Machine

/-- The three registers `FORMAT` writes, from a raw sample (R175). -/
def formatRegs (raw : BitVec 8) (s : State) : State :=
  let scaled := scale raw s.cfg.refMv
  { s with scaled := some scaled, ones := some (onesOf scaled), decm := some (decmOf scaled) }

/-- `FORMAT` (R175). It emits no event. -/
def execFormat (s : State) : Result := withValue s.raw fun raw => advance (formatRegs raw s)

/-- `RENDER` (R183): the driver state is tested first, then the registers (R219). -/
def execRender (s : State) : Result :=
  ifReady s (withValue s.ones fun ones => withValue s.decm fun decm =>
    advance (sendText (text7 ones decm) s))

end Sys2Proof.Machine
end

