-- ==== Sys2Proof/Machine/Lcd.lean ====
section
/-! DEFINITION. The display operations INIT, CLEAR, GOTO, CLR2 and PUTS (spec 41). -/

namespace Sys2Proof.Machine

/-- The events of one reset pulse and the gap after it (R140, phase 2). -/
def pulseEvents : List Event := strobeEvents ++ [.delay Config.tResetGap]

/-- The events of phases 1 and 2 of `INIT` (R140): the power-on settle and three pulses on one loaded nibble. -/
def resetEvents (n : Nibble) : List Event :=
  [.delay Config.tPowerOn, .rs Config.rsCmd, .d n] ++ pulseEvents ++ pulseEvents ++ pulseEvents

/-- Phases 1 and 2 of `INIT` (R140). -/
def resetPhase (s : State) : State :=
  { s with rs := Config.rsCmd, d := s.cfg.resetNibble, e := 1#1, trace := s.trace ++ resetEvents s.cfg.resetNibble }

/-- The mode commands of `INIT`, in the order they are sent (R140, phase 3). -/
def modeCommands : List Byte := [0x02#8, 0x28#8, 0x08#8, 0x0C#8, 0x06#8]

/-- `INIT` (R140); the observer starts when it completes (R81). -/
def execInit (s : State) : Result :=
  ifUninitialized s (
    let sent := sendCommands modeCommands (resetPhase s)
    advance { sent with drv := .ready, disp := sent.disp.start })

/-- `CLEAR` (R141). -/
def execClear (s : State) : Result :=
  ifReady s (advance (delay Config.tClear (writeByte Config.rsCmd 0x01#8 s)))

/-- `GOTO a` (R142). -/
def execGoto (a : DispAddr) (s : State) : Result :=
  ifReady s (advance (writeByte Config.rsCmd (setCursorByte a) s))

/-- The cursor goes to the start of line 2 (R144). -/
def homeLine2 (s : State) : State := writeByte Config.rsCmd (setCursorByte Config.line2Addr) s

/-- The byte transfers of `CLR2` (R144). -/
def blankLine2 (s : State) : State :=
  homeLine2 (sendText (List.replicate s.cfg.nCols Config.blank) (homeLine2 s))

/-- `CLR2` (R144). -/
def execClr2 (s : State) : Result := ifReady s (advance (blankLine2 s))

/-- The `WDAT` words a `PUTS` stands for, one after the other (R103, R143). -/
def wdatEach : List Byte → State → Result
  | [], s => .next s
  | c :: text, s =>
    match advance (writeByte Config.rsData c s) with
    | .next t => wdatEach text t
    | .fault f => .fault f
    | .refused r => .refused r

/-- `PUTS text` as the pseudo-operation (R143): `k` words `WDAT`, so `pc` advances by `k`. -/
def execPuts (text : List Byte) (s : State) : Result := ifReady s (wdatEach text s)

/-- `GOTO2`, that is `GOTO LINE2_ADDR` (R103). -/
def execGoto2 (s : State) : Result := ifReady s (advance (homeLine2 s))

end Sys2Proof.Machine
end

