-- ==== Sys2Proof/Machine/Primitives.lean ====
section
/-! DEFINITION. The micro-operations and the two operation forms of the byte transfer (spec 40). -/

namespace Sys2Proof.Machine

/-- `WCMD b`, one command byte (R123). -/
def execWcmd (b : Byte) (s : State) : Result := ifReady s (advance (writeByte Config.rsCmd b s))

/-- `WDAT b`, one data byte at the controller's cursor (R124). -/
def execWdat (b : Byte) (s : State) : Result := ifReady s (advance (writeByte Config.rsData b s))

/-- `STROBE` alone (R120): no operation word, `pc` untouched. -/
def execStrobe (s : State) : Result := .next (strobe s)

/-- `NIB(n)` alone (R121): no operation word, `pc` untouched. -/
def execNib (n : Nibble) (s : State) : Result := .next (nibble n s)

/-- `WBYTE(rs, b)` alone (R122): no operation word, no test of the driver state, `pc` untouched. -/
def execWbyte (rs : Bit) (b : Byte) (s : State) : Result := .next (writeByte rs b s)

end Sys2Proof.Machine
end

