-- ==== Sys2Proof/Machine/Sampler.lean ====
section
/-! DEFINITION. The analog sampler: SAMPLE and the converter it waits for (spec 42). Each poll is one step (R163); between
two steps the converter may complete, by a free choice (R166). -/

namespace Sys2Proof.Machine

/-- `ADC_DONE`: 1 when a conversion has completed (R34, R166 c). -/
def adcDone (s : State) : Bit :=
  match s.conv with
  | .idle => 0#1
  | .busy => 0#1
  | .done _ => 1#1

/-- The converter's opportunity to move (R166 b): while busy it may complete with a value of its choosing, of which
`ADC_BITS` bits count. `choice` is the free value the step supplies. -/
def converterMoves (choice : Option Nat) (s : State) : State :=
  match s.conv, choice with
  | .busy, some v => { s with conv := .done (v % 2 ^ s.cfg.adcBits), env := s.env + 1 }
  | .busy, none => { s with env := s.env + 1 }
  | .idle, _ => { s with env := s.env + 1 }
  | .done _, _ => { s with env := s.env + 1 }

/-- The events of step 1 of `SAMPLE` (R161): the configuration, and a wait of `T_ACQ` when it is not 0. -/
def configEvents (cfg : Config.Params) : List Event :=
  .adcCfg cfg.adcChannel .supply :: (if 0 < cfg.tAcq then [.delay cfg.tAcq] else [])

/-- Step 1 of `SAMPLE` (R161): channel and reference are configured on every call. -/
def configureConverter (s : State) : State :=
  { s with adcCh := s.cfg.adcChannel, adcRef := .supply, trace := s.trace ++ configEvents s.cfg }

/-- Step 2 of `SAMPLE` (R162): the start makes the converter busy, whatever it was (R166 a). -/
def startConversion (s : State) : State :=
  { s with conv := .busy, phase := .polling, trace := s.trace ++ [.adcStart] }

/-- Steps 1 and 2 of `SAMPLE`; `pc` stays (R163). -/
def sampleStart (choice : Option Nat) (s : State) : Result :=
  .next (converterMoves choice (startConversion (configureConverter s)))

/-- Step 4 of `SAMPLE` (R164): the result is read once and its top 8 bits kept. -/
def capture (v : Nat) (s : State) : State :=
  { s with raw := some (topByte s.cfg.adcBits v), phase := .idle, trace := s.trace ++ [.adcRead v] }

/-- One poll, step 3 of `SAMPLE` (R163): on 1 the result is captured and the operation ends; on 0 nothing else happens
and the wait goes on, without bound (R165). -/
def samplePoll (choice : Option Nat) (s : State) : Result :=
  let polled := emit [.adcPoll (adcDone s)] s
  match s.conv with
  | .done v => advance (capture v polled)
  | .busy => .next (converterMoves choice polled)
  | .idle => .next (converterMoves choice polled)

/-- `SAMPLE` (R160): its first step configures and starts, every later one polls. -/
def execSample (s : State) : Result :=
  match s.phase with
  | .idle => sampleStart (Config.conversion s.env) s
  | .polling => samplePoll (Config.conversion s.env) s

end Sys2Proof.Machine
end

