-- ==== Sys2Proof/Machine/Sequencer.lean ====
section
/-! DEFINITION. The operations of the main loop: LIVE, WAIT, JMP, their pseudo-operations, and the reserved words (spec 44;
30 R99, R103). -/

namespace Sys2Proof.Machine

/-- `LIVE v` (R197): a definite level is set, the line is not inverted. -/
def execLive (v : Bit) (s : State) : Result := advance (driveLive v s)

/-- `LIVEOFF`, that is `LIVE 0` (R103). -/
def execLiveoff (s : State) : Result := advance (driveLive Config.liveOff s)

/-- `LIVEON`, that is `LIVE 1` (R103). -/
def execLiveon (s : State) : Result := advance (driveLive Config.liveOn s)

/-- `WAIT` (R198). -/
def execWait (s : State) : Result := advance (delay Config.tRefresh s)

/-- `pc <- t` (R199). -/
def jumpTo (t : StoreAddr) (s : State) : State := { s with pc := t }

/-- `JMP t` (R199). -/
def execJmp (t : StoreAddr) (s : State) : Result := .next (jumpTo t s)

/-- `LOOP`, that is `JMP 1` (R103). -/
def execLoop (s : State) : Result := .next (jumpTo 1#4 s)

/-- The refusal of an illegal operation word (R99, R195). Nothing is emitted and nothing changes. -/
def illegalWord (_imm : Byte) (_s : State) : Result := .refused .illegalOperationWord

/-- `op = 0x0`, reserved (R99). -/
def execReserved0 (imm : Byte) (s : State) : Result := illegalWord imm s

/-- `op = 0xD`, reserved (R99). -/
def execReservedD (imm : Byte) (s : State) : Result := illegalWord imm s

/-- `op = 0xE`, reserved (R99). -/
def execReservedE (imm : Byte) (s : State) : Result := illegalWord imm s

/-- `op = 0xF`, reserved (R99). -/
def execReservedF (imm : Byte) (s : State) : Result := illegalWord imm s

end Sys2Proof.Machine
end

