-- ==== Sys2Proof/Machine/Dispatch.lean ====
section
/-! DEFINITION. One arm per row of the opcode table: the meaning of every instruction. -/

namespace Sys2Proof.Machine

def exec (i : Instr) (s : State) : Host.Outcome State Fault Refusal :=
  match i with
  | .init => Sys2Proof.Machine.execInit s
  | .clear => Sys2Proof.Machine.execClear s
  | .goto a => Sys2Proof.Machine.execGoto a s
  | .wcmd b => Sys2Proof.Machine.execWcmd b s
  | .wdat b => Sys2Proof.Machine.execWdat b s
  | .clr2 => Sys2Proof.Machine.execClr2 s
  | .sample => Sys2Proof.Machine.execSample s
  | .format => Sys2Proof.Machine.execFormat s
  | .render => Sys2Proof.Machine.execRender s
  | .live v => Sys2Proof.Machine.execLive v s
  | .wait => Sys2Proof.Machine.execWait s
  | .jmp t => Sys2Proof.Machine.execJmp t s
  | .puts text => Sys2Proof.Machine.execPuts text s
  | .liveoff => Sys2Proof.Machine.execLiveoff s
  | .liveon => Sys2Proof.Machine.execLiveon s
  | .goto2 => Sys2Proof.Machine.execGoto2 s
  | .loop => Sys2Proof.Machine.execLoop s
  | .reserved0 imm => Sys2Proof.Machine.execReserved0 imm s
  | .reservedD imm => Sys2Proof.Machine.execReservedD imm s
  | .reservedE imm => Sys2Proof.Machine.execReservedE imm s
  | .reservedF imm => Sys2Proof.Machine.execReservedF imm s
  | .lcdClearHome => Sys2Proof.Machine.execLcdClearHome s
  | .lcdMode4Init => Sys2Proof.Machine.execLcdMode4Init s
  | .lcdEntryInc => Sys2Proof.Machine.execLcdEntryInc s
  | .lcdDisplayOff => Sys2Proof.Machine.execLcdDisplayOff s
  | .lcdDisplayOn => Sys2Proof.Machine.execLcdDisplayOn s
  | .lcdFunc4Bit2Line => Sys2Proof.Machine.execLcdFunc4Bit2Line s
  | .lcdSetAddr addr => Sys2Proof.Machine.execLcdSetAddr addr s
  | .lcdData c => Sys2Proof.Machine.execLcdData c s
  | .nib n => Sys2Proof.Machine.execNib n s
  | .wbyte rs b => Sys2Proof.Machine.execWbyte rs b s
  | .strobe => Sys2Proof.Machine.execStrobe s

end Sys2Proof.Machine
end

