-- ==== Sys2Proof/Machine/Step.lean ====
section
/-! DEFINITION. One step of the sequencer (spec 44 R195). -/

namespace Sys2Proof.Machine

/-- Fetch, decode, execute (R195). An operation is one step, but for `SAMPLE`, whose polls are steps of their own (R163). -/
def step (s : State) : Host.Outcome State Fault Refusal :=
  match decodeOp (fetchWord s) with
  | .ok i => exec i s
  | .error _ => .refused .illegalOperationWord

/-- The state with the operation word whose table bits are `w` at the address `step` fetches from. -/
def State.withFetchWord (s : State) (nbits w : Nat) : State :=
  { s with rom := s.rom.set s.pc.toNat (BitVec.ofNat 12 (w % 2 ^ nbits)) s.pc.isLt }

end Sys2Proof.Machine
end

