-- ==== Sys2Proof/Safety.lean ====
section
/-! DEFINITION. What counts as a sound run: the protocol monitor that computes the latch events and transfers of a trace
(spec 00 R15, 40 R125), what a display line shows (20 R87), the invariants of the machine, and the comparison of two runs
that differ only in the display. -/

namespace Sys2Proof.Machine

/-- Where a trace stands inside the display protocol (R122, R125; 41 R140 phase 2). -/
inductive Stage where
  /-- Between two transfers. -/
  | free
  /-- `RS` was driven. -/
  | addressed
  /-- First nibble: loaded, strobe low, hold passed, strobe high again. -/
  | hiLoaded | hiLow | hiHeld | hiDone
  /-- Second nibble; after it the settle delay is due. -/
  | loLoaded | loLow | loHeld | loDone
  /-- Reset pulses two and three, each after the gap that follows the pulse before it. -/
  | gapOne | secondLow | secondHeld | secondDone
  | gapTwo | thirdLow | thirdHeld | thirdDone
  /-- The protocol was broken; there is no way back. -/
  | broken
  deriving DecidableEq, Repr

/-- What the monitor knows after a trace. -/
structure Monitor where
  stage : Stage
  /-- A delay of at least `T_POWER_ON` has passed (R252). -/
  settled : Bool
  /-- The levels of the lines. -/
  rs : Bit
  d : Nibble
  /-- The first nibble of the byte under way. -/
  hi : Nibble
  /-- `LATCH(rs, n)`, one for each strobe pulse (R15, R120). -/
  latches : List (Bit × Nibble)
  /-- `XFER(rs, b)`, one for each byte transfer (R15, R122). -/
  transfers : List (Bit × Byte)
  deriving DecidableEq, Repr

/-- Go on if the condition holds; otherwise the protocol is broken. -/
def Stage.ensure (ok : Bool) (next : Stage) : Stage := if ok then next else .broken

/-- The stage after one event. A pulse holds the line low for at least `T_STROBE_HOLD` with no other event inside (R125 a);
`RS` and `D` are driven only in their places (R125 b, c); a pair ends with at least `T_BYTE_SETTLE` (R125 d); three
pulses on one nibble, spaced by `T_RESET_GAP`, are taken only before the first byte transfer, and nothing is driven before
the power-on settle (R125 b, R252). -/
def Monitor.nextStage (m : Monitor) (ev : Event) : Stage :=
  match m.stage, ev with
  | .free, .rs _ => .ensure m.settled .addressed
  | .free, .d _ => .broken
  | .free, .e _ => .broken
  | .free, _ => .free
  | .addressed, .d _ => .hiLoaded
  | .hiLoaded, .e b => .ensure (b == 0#1) .hiLow
  | .hiLow, .delay t => .ensure (decide (Config.tStrobeHold ≤ t)) .hiHeld
  | .hiHeld, .e b => .ensure (b == 1#1) .hiDone
  | .hiDone, .d _ => .loLoaded
  | .loLoaded, .e b => .ensure (b == 0#1) .loLow
  | .loLow, .delay t => .ensure (decide (Config.tStrobeHold ≤ t)) .loHeld
  | .loHeld, .e b => .ensure (b == 1#1) .loDone
  | .loDone, .delay t => .ensure (decide (Config.tByteSettle ≤ t)) .free
  | .hiDone, .delay t => .ensure (decide (Config.tResetGap ≤ t) && m.transfers.isEmpty) .gapOne
  | .gapOne, .e b => .ensure (b == 0#1) .secondLow
  | .secondLow, .delay t => .ensure (decide (Config.tStrobeHold ≤ t)) .secondHeld
  | .secondHeld, .e b => .ensure (b == 1#1) .secondDone
  | .secondDone, .delay t => .ensure (decide (Config.tResetGap ≤ t)) .gapTwo
  | .gapTwo, .e b => .ensure (b == 0#1) .thirdLow
  | .thirdLow, .delay t => .ensure (decide (Config.tStrobeHold ≤ t)) .thirdHeld
  | .thirdHeld, .e b => .ensure (b == 1#1) .thirdDone
  | .thirdDone, .delay t => .ensure (decide (Config.tResetGap ≤ t)) .free
  | _, _ => .broken

/-- Is the event a delay of at least `t`? -/
def Event.waits (t : Nat) : Event → Bool
  | .delay u => decide (t ≤ u)
  | _ => false

/-- The register-select level after an event. -/
def Event.rsAfter (old : Bit) : Event → Bit
  | .rs b => b
  | _ => old

/-- The data lines after an event. -/
def Event.dAfter (old : Nibble) : Event → Nibble
  | .d n => n
  | _ => old

/-- The monitor after one event. A latch event is counted when the strobe goes low, a transfer when its settle has passed. -/
def Monitor.next (m : Monitor) (ev : Event) : Monitor :=
  { stage := m.nextStage ev
    settled := m.settled || ev.waits Config.tPowerOn
    rs := ev.rsAfter m.rs
    d := ev.dAfter m.d
    hi := if m.stage = .hiDone then m.d else m.hi
    latches := if ev = .e 0#1 then m.latches ++ [(m.rs, m.d)] else m.latches
    transfers :=
      if m.stage = .loDone && ev.waits Config.tByteSettle then m.transfers ++ [(m.rs, m.hi ++ m.d)] else m.transfers }

/-- The monitor before any event: the lines at their reset levels (R44), on which no latch event depends. -/
def Monitor.start : Monitor :=
  { stage := .free, settled := false, rs := 0#1, d := 0x0#4, hi := 0x0#4, latches := [], transfers := [] }

/-- The monitor after a trace. -/
def monitor (trace : List Event) : Monitor := trace.foldl Monitor.next Monitor.start

/-- The monitor of a settled interface whose reset phase is over, before any further event. -/
def Monitor.settledStart : Monitor := { Monitor.start with settled := true }

/-- The transfers that events emitted on a settled, free interface make (R15). -/
def transfersOf (events : List Event) : List (Bit × Byte) :=
  (events.foldl Monitor.next Monitor.settledStart).transfers

/-- The observer after a list of transfers (R80: it "consumes `XFER(rs, b)` events"). -/
def Display.takeAll (nCols : Nat) (d : Display) (xs : List (Bit × Byte)) : Display :=
  xs.foldl (fun d x => d.take nCols x.1 x.2) d

/-- The ten events of one byte transfer, as R122 lists them. -/
def tenEvents (rs : Bit) (b : Byte) : List Event :=
  [.rs rs,
   .d (b.extractLsb' 4 4), .e 0#1, .delay 20000, .e 1#1,
   .d (b.extractLsb' 0 4), .e 0#1, .delay 20000, .e 1#1,
   .delay 100]

/-- The fifteen events of phases 1 and 2 of `INIT`, as R140 lists them. -/
def fifteenEvents (n : Nibble) : List Event :=
  [.delay 150000, .rs 0#1, .d n,
   .e 0#1, .delay 20000, .e 1#1, .delay 5000,
   .e 0#1, .delay 20000, .e 1#1, .delay 5000,
   .e 0#1, .delay 20000, .e 1#1, .delay 5000]

/-- "The line that begins at `base` shows the text" (R87). -/
structure Display.Shows (d : Display) (nCols base : Nat) (text : List Byte) : Prop where
  fits : text.length ≤ nCols
  active : d.active = true
  unpoisoned : d.poison = false
  lit : d.on = true
  chars : ∀ i, i < text.length → d.cell (base + i) = text[i]?
  blanks : ∀ i, text.length ≤ i → i < nCols → d.cell (base + i) = some Config.blank

/-- The trace of the state keeps the protocol: it stands between two transfers, no byte was transferred before `INIT`,
and the power-on settle is over once the driver is ready (R125, R252). -/
structure State.Framed (s : State) : Prop where
  free : (monitor s.trace).stage = .free
  silent : s.drv = .uninitialized → (monitor s.trace).transfers = []
  settled : s.drv = .ready → (monitor s.trace).settled = true

/-- The data registers `FORMAT` writes are valid together, and the digits are in their ranges (R24 to R26). -/
structure State.DigitsOk (s : State) : Prop where
  together : s.scaled.isSome = s.ones.isSome ∧ s.ones.isSome = s.decm.isSome
  ones : ∀ o, s.ones = some o → o.toNat ≤ 9
  decm : ∀ m, s.decm = some m → m.toNat ≤ 999

/-- While a `SAMPLE` is under way, `pc` is at a `SAMPLE` and the converter was started; a completed result has `ADC_BITS`
bits (R163, R166). -/
structure State.SamplingOk (s : State) : Prop where
  atSample : s.phase = .polling → decodeOp (fetchWord s) = .ok .sample
  started : s.phase = .polling → s.conv ≠ .idle
  width : ∀ v, s.conv = .done v → v < 2 ^ s.cfg.adcBits

/-- The observer follows the controller exactly when the driver is ready (R81, R140). -/
def State.ObserverOk (s : State) : Prop := s.disp.active = true ↔ s.drv = .ready

/-- The strobe line rests high (R29). -/
def State.StrobeRests (s : State) : Prop := s.e = 1#1

/-- The display memory is in canonical form. -/
def State.MemoryOk (s : State) : Prop := Memory.wf s.disp.cells = true

/-- The state with another display. -/
def State.withDisplay (s : State) (d : Display) : State := { s with disp := d }

/-- A refusal with the display left out of the state it carries. -/
def Refusal.forgetDisplay (r : Refusal) : Refusal :=
  match r with
  | .pcPastEndOfProgramStore last => .pcPastEndOfProgramStore (last.withDisplay Display.reset)
  | other => other

/-- The outcome of a step with the display left out. -/
def forgetDisplay (r : Result) : Result :=
  match r with
  | .next t => .next (t.withDisplay Display.reset)
  | .fault f => .fault f
  | .refused r => .refused r.forgetDisplay

end Sys2Proof.Machine
end

