-- ==== Sys2Proof/Certificates/Slice0/Obligations.lean ====
section
/-! DEFINITION. The statements for the provers. Each docstring names the rule of spec/ it formalises, and where a clause
rests on a decision the spec marks as its own, it names that decision (D<n> of spec/92). -/

open Sys2Proof Sys2Proof.Machine

/-! ## Reset, decoding, the step -/

/-- What reset leaves (R44, R245), every value the spec's table gives, the sixteen words of the hardwired program (R200,
D22; that they stand in the state is log entry 5) and the reference of this hardware (R8; log entry 4). Only `DRV_STATE`
and the absence of data values come from the document; the line levels and `pc` are the spec's decisions D5, D26, D27.
`ADC_CH`, `ADC_REF` and `CONV`, whose reset values are the model's (log entry 2), are not stated. -/
def Obligations.ResetLeavesTheSpecsValues : Prop :=
  State.reset.drv = .uninitialized ∧ State.reset.pc = 0#4 ∧
  State.reset.raw = none ∧ State.reset.scaled = none ∧ State.reset.ones = none ∧ State.reset.decm = none ∧
  State.reset.rs = 0#1 ∧ State.reset.d = 0x0#4 ∧ State.reset.e = 1#1 ∧ State.reset.live = 0#1 ∧
  State.reset.trace = [] ∧
  State.reset.disp.active = false ∧ State.reset.disp.cur = none ∧ State.reset.disp.on = false ∧
  State.reset.disp.poison = false ∧ (∀ a, State.reset.disp.cell a = none) ∧
  State.reset.rom =
    #v[0x100#12, 0xA00#12, 0x600#12, 0x700#12, 0xA01#12, 0x800#12, 0x900#12, 0xB00#12,
       0xC01#12, 0x000#12, 0x000#12, 0x000#12, 0x000#12, 0x000#12, 0x000#12, 0x000#12] ∧
  State.reset.cfg.refMv = 5000#16

/-- Words written out bit by bit from the table of R97 (D21), one of each operation, and the frames of R93 and R94. -/
def Obligations.SpecWordsDecode : Prop :=
  decodeOp 0b000100000000#12 = .ok .init ∧ decodeOp 0b001000000000#12 = .ok .clear ∧
  decodeOp 0b001100101000#12 = .ok (.goto 40#7) ∧ decodeOp 0b010010101000#12 = .ok (.wcmd 0xA8#8) ∧
  decodeOp 0b010101010110#12 = .ok (.wdat 0x56#8) ∧ decodeOp 0b011000000000#12 = .ok .clr2 ∧
  decodeOp 0b011100000000#12 = .ok .sample ∧ decodeOp 0b100000000000#12 = .ok .format ∧
  decodeOp 0b100100000000#12 = .ok .render ∧ decodeOp 0b101000000001#12 = .ok (.live 1#1) ∧
  decodeOp 0b101100000000#12 = .ok .wait ∧ decodeOp 0b110000001111#12 = .ok (.jmp 15#4) ∧
  decodeFrame 0b000000001#9 = .ok .lcdClearHome ∧ decodeFrame 0b010101000#9 = .ok (.lcdSetAddr 40#7) ∧
  decodeFrame 0b101010110#9 = .ok (.lcdData 0x56#8)

/-- R195: a step runs the operation whose word stands at `pc`, and an illegal word is refused before anything happens.
Nothing is added around `exec`: the advance of `pc` is in each meaning. -/
def Obligations.StepRunsTheDecodedInstruction : Prop :=
  (∀ s i, decodeOp (s.rom[s.pc.toNat]'s.pc.isLt) = .ok i → step s = exec i s) ∧
  (∀ s, isLegal (s.rom[s.pc.toNat]'s.pc.isLt) = false → step s = .refused .illegalOperationWord)

/-- R97, R103: decoding the words of any well-formed instruction gives the operations it stands for, every operand bit
kept. A core operation and a reserved word stand for themselves. -/
def Obligations.DecodeAgreesWithEncode : Prop :=
  ∀ i, i.wellFormed = true → (encode i).map decodeOp = (expand i).map Except.ok

/-- R97, R101: a word that decodes to an operation is that operation's only word. -/
def Obligations.EncodeAgreesWithDecode : Prop :=
  ∀ w i, decodeOp w = .ok i → encode i = [w] ∧ expand i = [i]

/-- R99 (D24): exactly which of the 4096 words are illegal. -/
def Obligations.IllegalWordsAreThoseOfTheRule : Prop :=
  ∀ w : OpWord, isLegal w = false ↔
    (w.extractLsb' 8 4 ∈ [0x0#4, 0xD#4, 0xE#4, 0xF#4] ∨
     (w.extractLsb' 8 4 ∈ [0x1#4, 0x2#4, 0x6#4, 0x7#4, 0x8#4, 0x9#4, 0xB#4] ∧ w.extractLsb' 0 8 ≠ 0#8) ∨
     (w.extractLsb' 8 4 = 0x3#4 ∧ w.extractLsb' 7 1 = 1#1) ∨
     (w.extractLsb' 8 4 = 0xA#4 ∧ w.extractLsb' 1 7 ≠ 0#7) ∨
     (w.extractLsb' 8 4 = 0xC#4 ∧ w.extractLsb' 4 4 ≠ 0#4))

/-- R99: "A word matches at most one row of rule R97", reserved rows included: no word is taken by two rows of the table. -/
def Obligations.OneRowTakesAWord : Prop :=
  opTable.Pairwise fun r q => ∀ w, r.takes w = true → q.takes w = false

/-- R92 to R95: a byte frame and the display instruction it decodes to name each other, every bit kept; and what the
observer does with a transfer is the meaning of that instruction (R82 to R85), or `POISON` where there is none (R86). -/
def Obligations.FramesAreDisplayInstructions : Prop :=
  (∀ f i, decodeFrame f = .ok i → encodeFrame i = some f) ∧
  (∀ rs b i s, decodeFrame (rs ++ b) = .ok i →
    exec i s = .next (s.withDisplay (s.disp.take s.cfg.nCols rs b))) ∧
  (∀ rs b e (s : State), decodeFrame (rs ++ b) = .error e → s.disp.active = true →
    s.disp.take s.cfg.nCols rs b = { s.disp with poison := true })

/-- R91: a latch word is the register-select level and the nibble, in these bits. -/
def Obligations.LatchWordsRoundTrip : Prop :=
  (∀ rs n, decodeLatch (encodeLatch rs n) = (rs, .nib n)) ∧
  (∀ l : Latch, ∃ rs n, encodeLatch rs n = l ∧ rs = l.extractLsb' 4 1 ∧ n = l.extractLsb' 0 4)

/-! ## Micro-operations -/

/-- R120 (D5): the strobe pulse. That a pulse alone leaves the observer as it was is the model's choice (log entry 14,
DESIGN CHOICE): the observer takes whole transfers (R80, D28) and has no nibble phase (C13), and no step runs a pulse
alone. -/
def Obligations.StrobePulse : Prop :=
  ∀ s, exec .strobe s =
    .next { s with e := 1#1, trace := s.trace ++ [.e 0#1, .delay 20000, .e 1#1] }

/-- R121 (D5): the nibble transfer: the data latch is loaded, then one pulse, no event between. That it leaves the observer
as it was is the model's choice (log entry 14, DESIGN CHOICE), as in `StrobePulse`. -/
def Obligations.NibbleTransfer : Prop :=
  ∀ n s, exec (.nib n) s =
    .next { s with d := n, e := 1#1, trace := s.trace ++ [.d n, .e 0#1, .delay 20000, .e 1#1] }

/-- R122 (D5, D7): the byte transfer, its ten events in order; the transfer reaches the observer (R80) in the same step
(log entry 18). That it runs alone, outside the operations, is log entry 14. -/
def Obligations.ByteTransfer : Prop :=
  ∀ rs b s, exec (.wbyte rs b) s =
    .next { s with rs := rs, d := b.extractLsb' 0 4, e := 1#1, trace := s.trace ++ tenEvents rs b,
                   disp := s.disp.take s.cfg.nCols rs b }

/-! ## Display operations -/

/-- R123: `WCMD b` sends one command byte. The level of `RS`, the order of the events and the held phase of the strobe are
the spec's decisions D4, D7, D5, here and in every statement about a byte transfer. -/
def Obligations.WcmdSendsOneCommandByte : Prop :=
  ∀ b s, s.drv = .ready → s.pc ≠ 15#4 → exec (.wcmd b) s =
    .next { s with rs := 0#1, d := b.extractLsb' 0 4, e := 1#1, trace := s.trace ++ tenEvents 0#1 b,
                   disp := s.disp.take s.cfg.nCols 0#1 b, pc := s.pc + 1#4 }

/-- R124: `WDAT b` sends one data byte. -/
def Obligations.WdatSendsOneDataByte : Prop :=
  ∀ b s, s.drv = .ready → s.pc ≠ 15#4 → exec (.wdat b) s =
    .next { s with rs := 1#1, d := b.extractLsb' 0 4, e := 1#1, trace := s.trace ++ tenEvents 1#1 b,
                   disp := s.disp.take s.cfg.nCols 1#1 b, pc := s.pc + 1#4 }

/-- R141: `CLEAR` sends `0x01` and waits 2 ms more. -/
def Obligations.ClearSendsClearHomeAndWaits : Prop :=
  ∀ s, s.drv = .ready → s.pc ≠ 15#4 → exec .clear s =
    .next { s with rs := 0#1, d := 0x1#4, e := 1#1,
                   trace := s.trace ++ tenEvents 0#1 0x01#8 ++ [.delay 2000],
                   disp := s.disp.take s.cfg.nCols 0#1 0x01#8, pc := s.pc + 1#4 }

/-- R142, R94 (D15): `GOTO a` sends `0x80 + a`, and a following observer cursor is `a` (R83); `GOTO2` is `GOTO 40` (R103). -/
def Obligations.GotoSendsTheSetCursorByte : Prop :=
  (∀ a s, s.drv = .ready → s.pc ≠ 15#4 → exec (.goto a) s =
    .next { s with rs := 0#1, d := a.extractLsb' 0 4, e := 1#1,
                   trace := s.trace ++ tenEvents 0#1 (BitVec.ofNat 8 (0x80 + a.toNat)),
                   disp := if s.disp.active then { s.disp with cur := some a } else s.disp,
                   pc := s.pc + 1#4 }) ∧
  (∀ s, s.drv = .ready → s.pc ≠ 15#4 → exec .goto2 s =
    .next { s with rs := 0#1, d := 0x8#4, e := 1#1, trace := s.trace ++ tenEvents 0#1 0xA8#8,
                   disp := if s.disp.active then { s.disp with cur := some 40#7 } else s.disp,
                   pc := s.pc + 1#4 })

/-- R140 (D8 to D11), R81: `INIT` emits its 65 events in order, makes the driver ready and starts the observer, whose cursor
and cells are unknown. The observer is taken inactive while the driver is uninitialized, the invariant
`State.ObserverOk`. -/
def Obligations.InitRunsTheResetSequence : Prop :=
  ∀ s, s.drv = .uninitialized → s.ObserverOk → s.pc ≠ 15#4 → exec .init s =
    .next { s with rs := 0#1, d := 0x6#4, e := 1#1,
                   trace := s.trace ++ fifteenEvents s.cfg.resetNibble
                     ++ (tenEvents 0#1 0x02#8 ++ tenEvents 0#1 0x28#8 ++ tenEvents 0#1 0x08#8
                       ++ tenEvents 0#1 0x0C#8 ++ tenEvents 0#1 0x06#8),
                   drv := .ready,
                   disp := { active := true, on := true, cur := none, cells := [], poison := s.disp.poison },
                   pc := s.pc + 1#4 }

/-- R144 (D12 to D14): `CLR2` sends the line address, `N_COLS` blanks and the line address again, in this order. -/
def Obligations.Clr2SendsBlanksBetweenTwoGotos : Prop :=
  ∀ s, s.drv = .ready → s.pc ≠ 15#4 → exec .clr2 s =
    .next { s with rs := 0#1, d := 0x8#4, e := 1#1,
                   trace := s.trace ++ (tenEvents 0#1 0xA8#8
                     ++ (List.replicate s.cfg.nCols (tenEvents 1#1 0x20#8)).flatten ++ tenEvents 0#1 0xA8#8),
                   disp := s.disp.takeAll s.cfg.nCols
                     ((0#1, 0xA8#8) :: List.replicate s.cfg.nCols (1#1, 0x20#8) ++ [(0#1, 0xA8#8)]),
                   pc := s.pc + 1#4 }

/-- R144: what `CLR2` leaves on an active display that is not poisoned, with `N_COLS` in the range of R8: line 2 blank, the
cursor at its start, nothing else changed. -/
def Obligations.Clr2BlanksLineTwoOnly : Prop :=
  ∀ s, s.drv = .ready → s.pc ≠ 15#4 → s.disp.active = true → s.disp.poison = false → s.cfg.wf = true →
    ∃ t, exec .clr2 s = .next t ∧ t.disp.cur = some 40#7 ∧ t.disp.poison = false ∧
      t.disp.active = true ∧ t.disp.on = s.disp.on ∧
      (∀ a, 40 ≤ a → a < 40 + s.cfg.nCols → t.disp.cell a = some 0x20#8) ∧
      (∀ a, ¬ (40 ≤ a ∧ a < 40 + s.cfg.nCols) → t.disp.cell a = s.disp.cell a)

/-- R147: a second `CLR2` in a row leaves the display as the first left it, and emits its events again. -/
def Obligations.Clr2IsIdempotentOnTheDisplay : Prop :=
  ∀ s, s.drv = .ready → s.pc.toNat < 14 → s.disp.active = true → s.disp.poison = false → s.cfg.wf = true →
    s.MemoryOk →
    ∃ t u, exec .clr2 s = .next t ∧ exec .clr2 t = .next u ∧ u.disp = t.disp ∧
      u.trace.length = t.trace.length + 10 * (s.cfg.nCols + 2)

/-- R143, R103: `PUTS` of `k` characters is `k` words `WDAT`: their events and transfers in order, `pc` advanced by `k`.
No character emits nothing and advances nothing. -/
def Obligations.PutsSendsEachCharacterInOrder : Prop :=
  ∀ text s, s.drv = .ready → s.pc.toNat + text.length < 16 → ∃ t, exec (.puts text) s = .next t ∧
    t.trace = s.trace ++ (text.map (tenEvents 1#1)).flatten ∧
    t.disp = s.disp.takeAll s.cfg.nCols (text.map fun c => (1#1, c)) ∧
    t.pc = s.pc + BitVec.ofNat 4 text.length ∧
    (text = [] → t = s) ∧
    (∀ c, text.getLast? = some c → t.rs = 1#1 ∧ t.d = c.extractLsb' 0 4 ∧ t.e = 1#1)

/-- R36, R143: a `PUTS` that runs past the top of the program store has sent the characters of the words that fit. -/
def Obligations.PutsPastTheTopStopsAfterItsEvents : Prop :=
  ∀ text s, s.drv = .ready → 16 ≤ s.pc.toNat + text.length →
    text ≠ [] →
    ∃ last, exec (.puts text) s = .refused (.pcPastEndOfProgramStore last) ∧ last.pc = 15#4 ∧
      last.trace = s.trace ++ ((text.take (16 - s.pc.toNat)).map (tenEvents 1#1)).flatten

/-- R127 (D25), R26 (D27), R219: a display operation before `INIT`, a second `INIT` and a read of a register never written
are refused, whatever the rest of the state is; of two reasons the driver state comes first. `PUTS` with no character is
refused before `INIT` as well, by the first line of the pseudocode of R143. -/
def Obligations.ContractViolationsAreRefused : Prop :=
  ∀ s,
    (s.drv = .uninitialized → ∀ i, (i ∈ [Instr.clear, .clr2, .render, .goto2] ∨ (∃ a, i = .goto a) ∨
        (∃ b, i = .wcmd b ∨ i = .wdat b) ∨ (∃ text, i = .puts text)) →
      exec i s = .refused .displayOperationBeforeInit) ∧
    (s.drv = .ready → exec .init s = .refused .secondInit) ∧
    (s.raw = none → exec .format s = .refused .readOfUnwrittenRegister) ∧
    (s.drv = .ready → s.ones = none ∨ s.decm = none → exec .render s = .refused .readOfUnwrittenRegister)

/-! ## Sampler -/

/-- R161, R162, R166 a: a `SAMPLE` that is not under way configures the converter, starts it whatever it was, and waits at
the same `pc`; the converter is then busy, or already done with a value of `ADC_BITS` bits. That configuring and starting
are one step of their own, without a poll, is the model's choice (log entry 6, DESIGN CHOICE; R163 and D34 make only each
poll a step), and so is the counter `env` (log entry 3, DESIGN CHOICE). -/
def Obligations.SampleConfiguresAndStarts : Prop :=
  ∀ s, s.phase = .idle →
    ∃ c, exec .sample s =
      .next { s with adcCh := s.cfg.adcChannel, adcRef := .supply, phase := .polling, conv := c, env := s.env + 1,
                     trace := s.trace ++ (.adcCfg s.cfg.adcChannel .supply ::
                       ((if 0 < s.cfg.tAcq then [.delay s.cfg.tAcq] else []) ++ [.adcStart])) } ∧
      (c = .busy ∨ ∃ v, c = .done v ∧ v < 2 ^ s.cfg.adcBits)

/-- R163, R165: a poll that reads 0 emits one event and changes nothing but the converter, which may complete with any
value or stay busy; there is no bound and no timeout. The counter `env` is the model's own (log entry 3, DESIGN CHOICE). -/
def Obligations.PollOfZeroKeepsWaiting : Prop :=
  ∀ s, s.phase = .polling → s.conv = .busy →
    ∃ c, exec .sample s = .next { s with conv := c, env := s.env + 1, trace := s.trace ++ [.adcPoll 0#1] } ∧
      (c = .busy ∨ ∃ v, c = .done v ∧ v < 2 ^ s.cfg.adcBits)

/-- R160, R163, R164, R67: a poll that reads 1 ends the `SAMPLE`: the result is read once, `RAW` holds its most-significant
8 bits, the low bits never count, and `pc` advances (R36). That the capture and the advance are in the step of that poll
is the model's choice (log entry 6, DESIGN CHOICE; D34 makes the poll a step). -/
def Obligations.SampleCapturesTheTopByte : Prop :=
  ∀ s v, s.phase = .polling → s.conv = .done v → s.pc ≠ 15#4 → 8 ≤ s.cfg.adcBits → v < 2 ^ s.cfg.adcBits →
    ∃ r : BitVec 8, exec .sample s =
      .next { s with raw := some r, phase := .idle, pc := s.pc + 1#4,
                     trace := s.trace ++ [.adcPoll 1#1, .adcRead v] } ∧
      r.toNat = v / 2 ^ (s.cfg.adcBits - 8)

/-- R165 (D19): a `SAMPLE` under way goes on without end until a poll reads 1, and only then. The steps are those of log
entry 6 (DESIGN CHOICE). -/
def Obligations.SampleEndsOnlyOnACompletedConversion : Prop :=
  ∀ s t, s.phase = .polling → exec .sample s = .next t →
    (t.phase = .idle ↔ ∃ v, s.conv = .done v) ∧
    (t.phase = .polling → t.pc = s.pc ∧ t.raw = s.raw ∧ t.live = s.live ∧ t.disp = s.disp)

/-! ## Formatter -/

/-- R175, R176, R177, R179: `FORMAT` computes exactly, for every reference, truncating; the digit is in its range. -/
def Obligations.FormatScalesAndSplits : Prop :=
  ∀ s raw, s.raw = some raw → s.pc ≠ 15#4 → ∃ (sc : BitVec 16) (o : BitVec 4) (m : BitVec 10),
    exec .format s = .next { s with scaled := some sc, ones := some o, decm := some m, pc := s.pc + 1#4 } ∧
    sc.toNat = raw.toNat * s.cfg.refMv.toNat / 256 ∧
    o.toNat = sc.toNat / 1000 % 10 ∧ m.toNat = sc.toNat % 1000 ∧
    o.toNat ≤ 9 ∧ (s.cfg.refMv = 5000#16 → o.toNat ≤ 4)

/-- R180: "`format(raw)` returns `ones ∈ [0,9]` and `decm ∈ [0,999]`, and `ones*1000+decm == (raw*5000/256) mod 10000`",
for every raw sample and the reference 5000. -/
def Obligations.FormatAgreesWithItsProperty : Prop :=
  ∀ s t, exec .format s = .next t → s.cfg.refMv = 5000#16 → ∃ raw o m,
    s.raw = some raw ∧ t.ones = some o ∧ t.decm = some m ∧
    o.toNat ≤ 9 ∧ m.toNat ≤ 999 ∧ o.toNat * 1000 + m.toNat = raw.toNat * 5000 / 256 % 10000

/-- R183, R181 (D12): `RENDER` sends the seven characters in order, most significant digit first. -/
def Obligations.RenderSendsSevenCharacters : Prop :=
  ∀ s o m, s.drv = .ready → s.ones = some o → s.decm = some m → s.pc ≠ 15#4 →
    ∃ text : List Byte,
      text.map BitVec.toNat =
        [0x30 + o.toNat, 0x2E, 0x30 + m.toNat / 100, 0x30 + m.toNat / 10 % 10, 0x30 + m.toNat % 10, 0x20, 0x56] ∧
      exec .render s =
        .next { s with rs := 1#1, d := 0x6#4, e := 1#1,
                       trace := s.trace ++ (text.map (tenEvents 1#1)).flatten,
                       disp := s.disp.takeAll s.cfg.nCols (text.map fun c => (1#1, c)),
                       pc := s.pc + 1#4 }

/-- R182 (D12): the fraction is always exactly three characters, the text exactly seven, every digit a decimal digit, and
the three digits give back the value. -/
def Obligations.FractionIsZeroPaddedToThreeDigits : Prop :=
  ∀ (o : BitVec 4) (m : BitVec 10), o.toNat ≤ 9 → m.toNat ≤ 999 →
    (text7 o m).length = 7 ∧
    ∃ h t u : Byte, text7 o m = [0x30#8 + o.zeroExtend 8, 0x2E#8, h, t, u, 0x20#8, 0x56#8] ∧
      (∀ c ∈ [h, t, u, 0x30#8 + o.zeroExtend 8], 0x30 ≤ c.toNat ∧ c.toNat ≤ 0x39) ∧
      (h.toNat - 0x30) * 100 + (t.toNat - 0x30) * 10 + (u.toNat - 0x30) = m.toNat

/-- R87, R144, R183 (the end of an iteration in R201): `CLR2` and then `RENDER` on an active, lit display that is not
poisoned leave line 2 showing the seven characters and blanks after them, and the cursor 7 positions into the line. -/
def Obligations.Clr2ThenRenderShowsTheVoltage : Prop :=
  ∀ s o m, s.drv = .ready → s.pc.toNat < 14 → s.disp.active = true → s.disp.poison = false → s.disp.on = true →
    s.cfg.wf = true → s.ones = some o → s.decm = some m →
    ∃ t u, exec .clr2 s = .next t ∧ exec .render t = .next u ∧
      u.disp.Shows s.cfg.nCols 40 (text7 o m) ∧ u.disp.cur = some 47#7

/-! ## Sequencer -/

/-- R197, R103: `LIVE v` sets the line to `v` and records it, also when it has that level; `LIVEOFF` and `LIVEON` are
`LIVE 0` and `LIVE 1`. -/
def Obligations.LiveSetsADefiniteLevel : Prop :=
  ∀ s, s.pc ≠ 15#4 →
    (∀ v, exec (.live v) s = .next { s with live := v, trace := s.trace ++ [.live v], pc := s.pc + 1#4 }) ∧
    exec .liveoff s = .next { s with live := 0#1, trace := s.trace ++ [.live 0#1], pc := s.pc + 1#4 } ∧
    exec .liveon s = .next { s with live := 1#1, trace := s.trace ++ [.live 1#1], pc := s.pc + 1#4 }

/-- R198 (D29): `WAIT` blocks for at least 1 000 000 microseconds and moves nothing. -/
def Obligations.WaitBlocksForTheRefreshTime : Prop :=
  ∀ s, s.pc ≠ 15#4 →
    exec .wait s = .next { s with trace := s.trace ++ [.delay 1000000], pc := s.pc + 1#4 }

/-- R199: `JMP t` is the word `0xC00 + t`; it sets `pc` to `t`, for every `t` and from every address, and emits nothing. -/
def Obligations.JmpSetsThePc : Prop :=
  (∀ t s, exec (.jmp t) s = .next { s with pc := t }) ∧
  (∀ t : StoreAddr, decodeOp (BitVec.ofNat 12 (0xC00 + t.toNat)) = .ok (.jmp t))

/-- R103: `LOOP` is `JMP 1`. -/
def Obligations.LoopJumpsToOne : Prop :=
  ∀ s, exec .loop s = .next { s with pc := 1#4 }

/-- R36 (D23), R217: an instruction other than a jump that completes at `pc = 15` has done everything it does at any other
address, and is then refused. Every operation and every other name of one is meant, `LIVEOFF`, `LIVEON`, `GOTO2` and a
`PUTS` of one character among them; `JMP` and its name `LOOP` set `pc` instead of advancing it. -/
def Obligations.CompletionAtFifteenIsRefusedAfterItsEffect : Prop :=
  ∀ i s t, (∀ a, i ≠ .jmp a) → i ≠ .loop → s.pc = 0#4 → exec i s = .next t → t.pc = 1#4 →
    exec i { s with pc := 15#4 } = .refused (.pcPastEndOfProgramStore { t with pc := 15#4 })

/-- R99 (D24): the reserved words are refused as illegal operation words, whatever their immediate. -/
def Obligations.ReservedWordsAreRefused : Prop :=
  ∀ imm s,
    exec (.reserved0 imm) s = .refused .illegalOperationWord ∧
    exec (.reservedD imm) s = .refused .illegalOperationWord ∧
    exec (.reservedE imm) s = .refused .illegalOperationWord ∧
    exec (.reservedF imm) s = .refused .illegalOperationWord

/-! ## The display controller -/

/-- R82: "clear+home". Every cell is blank, the cursor 0; nothing else changes. -/
def Obligations.ClearHomeBlanksEveryCell : Prop :=
  ∀ s, s.disp.active = true →
    ∃ cells, exec .lcdClearHome s = .next (s.withDisplay { s.disp with cells := cells, cur := some 0#7 }) ∧
      Memory.wf cells = true ∧ ∀ a, a < 128 → Memory.read cells a = some 0x20#8

/-- R83: a command byte with `b[7] = 1` is the set-cursor command of the address `b[6:0]`; the cursor is there after it and
no cell changes. -/
def Obligations.SetAddrMovesTheCursor : Prop :=
  ∀ (b : Byte) s, b.msb = true → s.disp.active = true →
    decodeFrame (0#1 ++ b) = .ok (.lcdSetAddr (b.extractLsb' 0 7)) ∧
    exec (.lcdSetAddr (b.extractLsb' 0 7)) s =
      .next (s.withDisplay { s.disp with cur := some (b.extractLsb' 0 7) })

/-- R84, R62: a data byte is stored at a known, visible cursor, which moves on by one, unknown past 127; no other cell
changes; anywhere else it poisons the observer and stores nothing. -/
def Obligations.DataByteIsStoredAtAVisibleCursor : Prop :=
  ∀ c s, s.disp.active = true →
    (∀ a, s.disp.cur = some a →
      (a.toNat < s.cfg.nCols ∨ (40 ≤ a.toNat ∧ a.toNat < 40 + s.cfg.nCols)) →
      ∃ cells, exec (.lcdData c) s =
        .next (s.withDisplay { s.disp with cells := cells, cur := if a.toNat < 127 then some (a + 1#7) else none }) ∧
        Memory.read cells a.toNat = some c ∧
        ∀ b, b ≠ a.toNat → Memory.read cells b = s.disp.cell b) ∧
    ((s.disp.cur = none ∨ ∃ a, s.disp.cur = some a ∧
        ¬ (a.toNat < s.cfg.nCols ∨ (40 ≤ a.toNat ∧ a.toNat < 40 + s.cfg.nCols))) →
      exec (.lcdData c) s = .next (s.withDisplay { s.disp with poison := true }))

/-- R85: the mode commands after `INIT`: `0x0C` and `0x08` switch the display, `0x06` and `0x28` change nothing, `0x02`
poisons the observer. -/
def Obligations.ModeCommandsAfterInit : Prop :=
  decodeFrame (0#1 ++ 0x0C#8) = .ok .lcdDisplayOn ∧ decodeFrame (0#1 ++ 0x08#8) = .ok .lcdDisplayOff ∧
  decodeFrame (0#1 ++ 0x06#8) = .ok .lcdEntryInc ∧ decodeFrame (0#1 ++ 0x28#8) = .ok .lcdFunc4Bit2Line ∧
  decodeFrame (0#1 ++ 0x02#8) = .ok .lcdMode4Init ∧
  ∀ s, s.disp.active = true →
    exec .lcdDisplayOn s = .next (s.withDisplay { s.disp with on := true }) ∧
    exec .lcdDisplayOff s = .next (s.withDisplay { s.disp with on := false }) ∧
    exec .lcdEntryInc s = .next s ∧
    exec .lcdFunc4Bit2Line s = .next s ∧
    exec .lcdMode4Init s = .next (s.withDisplay { s.disp with poison := true })

/-- R81: while the observer is not active it ignores every byte. -/
def Obligations.InactiveObserverIgnoresEverything : Prop :=
  ∀ s i, s.disp.active = false →
    (i ∈ [Instr.lcdClearHome, .lcdMode4Init, .lcdEntryInc, .lcdDisplayOff, .lcdDisplayOn, .lcdFunc4Bit2Line] ∨
      (∃ a, i = .lcdSetAddr a) ∨ (∃ c, i = .lcdData c)) →
    exec i s = .next s

/-! ## Frames -/

/-- The frame of the operations that drive no display line (R163, R175, R197 to R199; R21, R28 to R32): the display, its
lines, every cell and the driver state stay; of the other registers each changes only in the operation that writes it. -/
def Obligations.NonDisplayOperationsFrame : Prop :=
  ∀ i s t, (i ∈ [Instr.sample, .format, .wait, .liveoff, .liveon, .loop] ∨ (∃ v, i = .live v) ∨ (∃ a, i = .jmp a)) →
    exec i s = .next t →
    (t.rs = s.rs ∧ t.e = s.e ∧ t.d = s.d ∧ t.drv = s.drv ∧ t.disp = s.disp ∧ (∀ a, t.disp.cell a = s.disp.cell a) ∧
      t.cfg = s.cfg ∧ t.rom = s.rom) ∧
    (i ≠ .sample → t.raw = s.raw ∧ t.adcCh = s.adcCh ∧ t.adcRef = s.adcRef ∧ t.conv = s.conv ∧
      t.phase = s.phase ∧ t.env = s.env) ∧
    (i ≠ .format → t.scaled = s.scaled ∧ t.ones = s.ones ∧ t.decm = s.decm) ∧
    (i ≠ .liveoff → i ≠ .liveon → (∀ v, i ≠ .live v) → t.live = s.live)

/-- The frame of the operations and micro-operations that drive the display (R120 to R124, R140 to R144, R183): they touch
no data register, no liveness level, no converter state; only `INIT` changes the driver state (R38). -/
def Obligations.DisplayOperationsFrame : Prop :=
  ∀ i s t, (i ∈ [Instr.init, .clear, .clr2, .render, .goto2, .strobe] ∨ (∃ a, i = .goto a) ∨
      (∃ b, i = .wcmd b ∨ i = .wdat b) ∨ (∃ text, i = .puts text) ∨ (∃ n, i = .nib n) ∨ (∃ rs b, i = .wbyte rs b)) →
    exec i s = .next t →
    t.raw = s.raw ∧ t.scaled = s.scaled ∧ t.ones = s.ones ∧ t.decm = s.decm ∧ t.live = s.live ∧
    t.adcCh = s.adcCh ∧ t.adcRef = s.adcRef ∧ t.conv = s.conv ∧ t.phase = s.phase ∧ t.env = s.env ∧
    t.cfg = s.cfg ∧ t.rom = s.rom ∧ (i ≠ .init → t.drv = s.drv)

/-- The cells each display operation leaves alone (R82 to R86, R144): a set-cursor or mode command, the micro-operations
(a pulse or a nibble alone by the model's choice, log entry 14, DESIGN CHOICE) and every command byte but `0x01` leave all of them; a data byte leaves all but the one at the address it is stored to;
`CLR2` all outside line 2; `PUTS` and `RENDER` all but as many from the cursor on as they send characters. -/
def Obligations.DisplayCellsFrame : Prop :=
  ∀ s t,
    (∀ i, (i ∈ [Instr.goto2, .strobe] ∨ (∃ a, i = .goto a) ∨ (∃ n, i = .nib n) ∨
        (∃ b, b ≠ 0x01#8 ∧ (i = .wcmd b ∨ i = .wbyte 0#1 b))) →
      exec i s = .next t → ∀ a, t.disp.cell a = s.disp.cell a) ∧
    (∀ i, (∃ c, i = .wdat c ∨ i = .wbyte 1#1 c) → exec i s = .next t →
      ∀ a, (∀ x, s.disp.target s.cfg.nCols = some x → a ≠ x.toNat) → t.disp.cell a = s.disp.cell a) ∧
    (s.cfg.nCols ≤ 40 → exec .clr2 s = .next t →
      ∀ a, ¬ (40 ≤ a ∧ a < 40 + s.cfg.nCols) → t.disp.cell a = s.disp.cell a) ∧
    (∀ i k, ((∃ text, i = .puts text ∧ k = text.length) ∨ (i = .render ∧ k = 7)) → exec i s = .next t →
      ∀ a, (∀ c, s.disp.cur = some c → a < c.toNat ∨ c.toNat + k ≤ a) → t.disp.cell a = s.disp.cell a)

/-! ## Whole-machine rules -/

/-- R9, and R42, R61: no instruction changes a parameter or a word of the program store. -/
def Obligations.NoInstructionChangesParametersOrProgram : Prop :=
  ∀ i s t, exec i s = .next t → t.cfg = s.cfg ∧ t.rom = s.rom

/-- R43: the trace only grows, and what an instruction does, or the reason it is refused for, never depends on it. -/
def Obligations.TraceOnlyGrowsAndIsNeverRead : Prop :=
  ∀ i s,
    (∀ t, exec i s = .next t → ∃ events, t.trace = s.trace ++ events ∧
      ∀ old, exec i { s with trace := old } = .next { t with trace := old ++ events }) ∧
    (∀ last, exec i s = .refused (.pcPastEndOfProgramStore last) → ∃ events, last.trace = s.trace ++ events ∧
      ∀ old, exec i { s with trace := old } =
        .refused (.pcPastEndOfProgramStore { last with trace := old ++ events })) ∧
    (∀ r, exec i s = .refused r → (∀ last, r ≠ .pcPastEndOfProgramStore last) →
      ∀ old, exec i { s with trace := old } = .refused r)

/-- R145, R38: the driver makes one transition, and `INIT` makes it. -/
def Obligations.OnlyInitMakesTheDriverReady : Prop :=
  ∀ i s t, exec i s = .next t →
    t.drv = s.drv ∨ (i = .init ∧ s.drv = .uninitialized ∧ t.drv = .ready)

/-- R21, R31, R32: which instruction writes which register: `RAW` and the converter's configuration `SAMPLE`, the three
others `FORMAT`, the liveness line `LIVE` and its other names. -/
def Obligations.EachRegisterHasItsWriter : Prop :=
  ∀ i s t, exec i s = .next t →
    (t.raw ≠ s.raw → i = .sample) ∧
    (t.adcCh ≠ s.adcCh → i = .sample) ∧
    (t.scaled ≠ s.scaled ∨ t.ones ≠ s.ones ∨ t.decm ≠ s.decm → i = .format) ∧
    (t.live ≠ s.live → i = .liveoff ∨ i = .liveon ∨ ∃ v, i = .live v)

/-- R26: a data register that holds a value never returns to `none`. -/
def Obligations.WrittenRegistersStayWritten : Prop :=
  ∀ i s t, exec i s = .next t →
    (s.raw.isSome → t.raw.isSome) ∧ (s.scaled.isSome → t.scaled.isSome) ∧
    (s.ones.isSome → t.ones.isSome) ∧ (s.decm.isSome → t.decm.isSome)

/-- R86: a command byte the document does not define poisons the observer; "`POISON` is never cleared except by reset." -/
def Obligations.UndefinedCommandsPoisonAndPoisonStays : Prop :=
  (∀ (b : Byte) s t, b.msb = false → b ∉ [0x01#8, 0x02#8, 0x06#8, 0x08#8, 0x0C#8, 0x28#8] → s.disp.active = true →
    exec (.wbyte 0#1 b) s = .next t → t.disp = { s.disp with poison := true }) ∧
  (∀ i s t, exec i s = .next t → s.disp.poison = true → t.disp.poison = true)

/-- R146, R87: the engine never learns anything from the display: with another display, or none, every step ends the same
but for the display itself, the trace included. -/
def Obligations.EngineDoesNotDependOnTheDisplay : Prop :=
  ∀ s d, forgetDisplay (step (s.withDisplay d)) = forgetDisplay (step s)

/-- R80, R125: once the driver is ready, the display after a step is the observer run over exactly the transfers that the
protocol monitor reads off the events of that step, bit by bit from the lines. -/
def Obligations.DisplayIsDrivenByTheLinesAlone : Prop :=
  ∀ s t, s.drv = .ready → step s = .next t →
    ∃ events, t.trace = s.trace ++ events ∧
      t.disp = s.disp.takeAll s.cfg.nCols (transfersOf events)

/-! ## Invariants -/

/-- R125, R68, R250 to R252, R254, R255: every step keeps the trace inside the display protocol: pulses held, pairs of nibbles
with one register-select level, settled, the three reset pulses only before the first byte. -/
def Obligations.StepKeepsTheProtocol : Prop :=
  ∀ s t, s.Framed → step s = .next t → t.Framed

/-- R163, R165, R166: every step keeps what holds while a `SAMPLE` is under way; that it is several steps is log entry 6
(DESIGN CHOICE). -/
def Obligations.StepKeepsSamplingInOrder : Prop :=
  ∀ s t, s.SamplingOk → step s = .next t → t.SamplingOk

/-- R24, R25, R26, R177, R178: every step keeps the digits in their ranges and the three registers valid together. -/
def Obligations.StepKeepsTheDigits : Prop :=
  ∀ s t, s.DigitsOk → step s = .next t → t.DigitsOk

/-- R81, R140, R29, R80: every step keeps the observer active exactly when the driver is ready, the strobe line at rest, and
the display memory canonical. -/
def Obligations.StepKeepsObserverStrobeAndMemory : Prop :=
  ∀ s t, step s = .next t →
    (s.ObserverOk → t.ObserverOk) ∧ (s.StrobeRests → t.StrobeRests) ∧ (s.MemoryOk → t.MemoryOk)

/-- Every invariant holds right after reset. -/
def Obligations.ResetMeetsEveryInvariant : Prop :=
  State.reset.Framed ∧ State.reset.SamplingOk ∧ State.reset.DigitsOk ∧ State.reset.ObserverOk ∧
  State.reset.StrobeRests ∧ State.reset.MemoryOk
end

