-- ==== Sys2Proof/Laws/State.lean ====
section
/-! SUPPORT. What each update of the state does to each field, true by unfolding it once. -/

namespace Sys2Proof.Machine

@[simp] theorem emit_cfg (events : List Event) (s : State) : (emit events s).cfg = s.cfg := rfl
@[simp] theorem emit_rom (events : List Event) (s : State) : (emit events s).rom = s.rom := rfl
@[simp] theorem emit_raw (events : List Event) (s : State) : (emit events s).raw = s.raw := rfl
@[simp] theorem emit_scaled (events : List Event) (s : State) : (emit events s).scaled = s.scaled := rfl
@[simp] theorem emit_ones (events : List Event) (s : State) : (emit events s).ones = s.ones := rfl
@[simp] theorem emit_decm (events : List Event) (s : State) : (emit events s).decm = s.decm := rfl
@[simp] theorem emit_rs (events : List Event) (s : State) : (emit events s).rs = s.rs := rfl
@[simp] theorem emit_e (events : List Event) (s : State) : (emit events s).e = s.e := rfl
@[simp] theorem emit_d (events : List Event) (s : State) : (emit events s).d = s.d := rfl
@[simp] theorem emit_live (events : List Event) (s : State) : (emit events s).live = s.live := rfl
@[simp] theorem emit_adcCh (events : List Event) (s : State) : (emit events s).adcCh = s.adcCh := rfl
@[simp] theorem emit_adcRef (events : List Event) (s : State) : (emit events s).adcRef = s.adcRef := rfl
@[simp] theorem emit_pc (events : List Event) (s : State) : (emit events s).pc = s.pc := rfl
@[simp] theorem emit_drv (events : List Event) (s : State) : (emit events s).drv = s.drv := rfl
@[simp] theorem emit_phase (events : List Event) (s : State) : (emit events s).phase = s.phase := rfl
@[simp] theorem emit_conv (events : List Event) (s : State) : (emit events s).conv = s.conv := rfl
@[simp] theorem emit_env (events : List Event) (s : State) : (emit events s).env = s.env := rfl
@[simp] theorem emit_disp (events : List Event) (s : State) : (emit events s).disp = s.disp := rfl
@[simp] theorem emit_trace (events : List Event) (s : State) : (emit events s).trace = s.trace ++ events := rfl

@[simp] theorem delay_cfg (t : Nat) (s : State) : (delay t s).cfg = s.cfg := rfl
@[simp] theorem delay_rom (t : Nat) (s : State) : (delay t s).rom = s.rom := rfl
@[simp] theorem delay_raw (t : Nat) (s : State) : (delay t s).raw = s.raw := rfl
@[simp] theorem delay_scaled (t : Nat) (s : State) : (delay t s).scaled = s.scaled := rfl
@[simp] theorem delay_ones (t : Nat) (s : State) : (delay t s).ones = s.ones := rfl
@[simp] theorem delay_decm (t : Nat) (s : State) : (delay t s).decm = s.decm := rfl
@[simp] theorem delay_rs (t : Nat) (s : State) : (delay t s).rs = s.rs := rfl
@[simp] theorem delay_e (t : Nat) (s : State) : (delay t s).e = s.e := rfl
@[simp] theorem delay_d (t : Nat) (s : State) : (delay t s).d = s.d := rfl
@[simp] theorem delay_live (t : Nat) (s : State) : (delay t s).live = s.live := rfl
@[simp] theorem delay_adcCh (t : Nat) (s : State) : (delay t s).adcCh = s.adcCh := rfl
@[simp] theorem delay_adcRef (t : Nat) (s : State) : (delay t s).adcRef = s.adcRef := rfl
@[simp] theorem delay_pc (t : Nat) (s : State) : (delay t s).pc = s.pc := rfl
@[simp] theorem delay_drv (t : Nat) (s : State) : (delay t s).drv = s.drv := rfl
@[simp] theorem delay_phase (t : Nat) (s : State) : (delay t s).phase = s.phase := rfl
@[simp] theorem delay_conv (t : Nat) (s : State) : (delay t s).conv = s.conv := rfl
@[simp] theorem delay_env (t : Nat) (s : State) : (delay t s).env = s.env := rfl
@[simp] theorem delay_disp (t : Nat) (s : State) : (delay t s).disp = s.disp := rfl
@[simp] theorem delay_trace (t : Nat) (s : State) : (delay t s).trace = s.trace ++ [.delay t] := rfl

@[simp] theorem driveLive_cfg (b : Bit) (s : State) : (driveLive b s).cfg = s.cfg := rfl
@[simp] theorem driveLive_rom (b : Bit) (s : State) : (driveLive b s).rom = s.rom := rfl
@[simp] theorem driveLive_raw (b : Bit) (s : State) : (driveLive b s).raw = s.raw := rfl
@[simp] theorem driveLive_scaled (b : Bit) (s : State) : (driveLive b s).scaled = s.scaled := rfl
@[simp] theorem driveLive_ones (b : Bit) (s : State) : (driveLive b s).ones = s.ones := rfl
@[simp] theorem driveLive_decm (b : Bit) (s : State) : (driveLive b s).decm = s.decm := rfl
@[simp] theorem driveLive_rs (b : Bit) (s : State) : (driveLive b s).rs = s.rs := rfl
@[simp] theorem driveLive_e (b : Bit) (s : State) : (driveLive b s).e = s.e := rfl
@[simp] theorem driveLive_d (b : Bit) (s : State) : (driveLive b s).d = s.d := rfl
@[simp] theorem driveLive_live (b : Bit) (s : State) : (driveLive b s).live = b := rfl
@[simp] theorem driveLive_adcCh (b : Bit) (s : State) : (driveLive b s).adcCh = s.adcCh := rfl
@[simp] theorem driveLive_adcRef (b : Bit) (s : State) : (driveLive b s).adcRef = s.adcRef := rfl
@[simp] theorem driveLive_pc (b : Bit) (s : State) : (driveLive b s).pc = s.pc := rfl
@[simp] theorem driveLive_drv (b : Bit) (s : State) : (driveLive b s).drv = s.drv := rfl
@[simp] theorem driveLive_phase (b : Bit) (s : State) : (driveLive b s).phase = s.phase := rfl
@[simp] theorem driveLive_conv (b : Bit) (s : State) : (driveLive b s).conv = s.conv := rfl
@[simp] theorem driveLive_env (b : Bit) (s : State) : (driveLive b s).env = s.env := rfl
@[simp] theorem driveLive_disp (b : Bit) (s : State) : (driveLive b s).disp = s.disp := rfl
@[simp] theorem driveLive_trace (b : Bit) (s : State) : (driveLive b s).trace = s.trace ++ [.live b] := rfl

@[simp] theorem strobe_cfg (s : State) : (strobe s).cfg = s.cfg := rfl
@[simp] theorem strobe_rom (s : State) : (strobe s).rom = s.rom := rfl
@[simp] theorem strobe_raw (s : State) : (strobe s).raw = s.raw := rfl
@[simp] theorem strobe_scaled (s : State) : (strobe s).scaled = s.scaled := rfl
@[simp] theorem strobe_ones (s : State) : (strobe s).ones = s.ones := rfl
@[simp] theorem strobe_decm (s : State) : (strobe s).decm = s.decm := rfl
@[simp] theorem strobe_rs (s : State) : (strobe s).rs = s.rs := rfl
@[simp] theorem strobe_e (s : State) : (strobe s).e = 1#1 := rfl
@[simp] theorem strobe_d (s : State) : (strobe s).d = s.d := rfl
@[simp] theorem strobe_live (s : State) : (strobe s).live = s.live := rfl
@[simp] theorem strobe_adcCh (s : State) : (strobe s).adcCh = s.adcCh := rfl
@[simp] theorem strobe_adcRef (s : State) : (strobe s).adcRef = s.adcRef := rfl
@[simp] theorem strobe_pc (s : State) : (strobe s).pc = s.pc := rfl
@[simp] theorem strobe_drv (s : State) : (strobe s).drv = s.drv := rfl
@[simp] theorem strobe_phase (s : State) : (strobe s).phase = s.phase := rfl
@[simp] theorem strobe_conv (s : State) : (strobe s).conv = s.conv := rfl
@[simp] theorem strobe_env (s : State) : (strobe s).env = s.env := rfl
@[simp] theorem strobe_disp (s : State) : (strobe s).disp = s.disp := rfl
@[simp] theorem strobe_trace (s : State) : (strobe s).trace = s.trace ++ strobeEvents := rfl

@[simp] theorem nibble_cfg (n : Nibble) (s : State) : (nibble n s).cfg = s.cfg := rfl
@[simp] theorem nibble_rom (n : Nibble) (s : State) : (nibble n s).rom = s.rom := rfl
@[simp] theorem nibble_raw (n : Nibble) (s : State) : (nibble n s).raw = s.raw := rfl
@[simp] theorem nibble_scaled (n : Nibble) (s : State) : (nibble n s).scaled = s.scaled := rfl
@[simp] theorem nibble_ones (n : Nibble) (s : State) : (nibble n s).ones = s.ones := rfl
@[simp] theorem nibble_decm (n : Nibble) (s : State) : (nibble n s).decm = s.decm := rfl
@[simp] theorem nibble_rs (n : Nibble) (s : State) : (nibble n s).rs = s.rs := rfl
@[simp] theorem nibble_e (n : Nibble) (s : State) : (nibble n s).e = 1#1 := rfl
@[simp] theorem nibble_d (n : Nibble) (s : State) : (nibble n s).d = n := rfl
@[simp] theorem nibble_live (n : Nibble) (s : State) : (nibble n s).live = s.live := rfl
@[simp] theorem nibble_adcCh (n : Nibble) (s : State) : (nibble n s).adcCh = s.adcCh := rfl
@[simp] theorem nibble_adcRef (n : Nibble) (s : State) : (nibble n s).adcRef = s.adcRef := rfl
@[simp] theorem nibble_pc (n : Nibble) (s : State) : (nibble n s).pc = s.pc := rfl
@[simp] theorem nibble_drv (n : Nibble) (s : State) : (nibble n s).drv = s.drv := rfl
@[simp] theorem nibble_phase (n : Nibble) (s : State) : (nibble n s).phase = s.phase := rfl
@[simp] theorem nibble_conv (n : Nibble) (s : State) : (nibble n s).conv = s.conv := rfl
@[simp] theorem nibble_env (n : Nibble) (s : State) : (nibble n s).env = s.env := rfl
@[simp] theorem nibble_disp (n : Nibble) (s : State) : (nibble n s).disp = s.disp := rfl
@[simp] theorem nibble_trace (n : Nibble) (s : State) : (nibble n s).trace = s.trace ++ nibbleEvents n := rfl

@[simp] theorem writeByte_cfg (rs : Bit) (b : Byte) (s : State) : (writeByte rs b s).cfg = s.cfg := rfl
@[simp] theorem writeByte_rom (rs : Bit) (b : Byte) (s : State) : (writeByte rs b s).rom = s.rom := rfl
@[simp] theorem writeByte_raw (rs : Bit) (b : Byte) (s : State) : (writeByte rs b s).raw = s.raw := rfl
@[simp] theorem writeByte_scaled (rs : Bit) (b : Byte) (s : State) : (writeByte rs b s).scaled = s.scaled := rfl
@[simp] theorem writeByte_ones (rs : Bit) (b : Byte) (s : State) : (writeByte rs b s).ones = s.ones := rfl
@[simp] theorem writeByte_decm (rs : Bit) (b : Byte) (s : State) : (writeByte rs b s).decm = s.decm := rfl
@[simp] theorem writeByte_rs (rs : Bit) (b : Byte) (s : State) : (writeByte rs b s).rs = rs := rfl
@[simp] theorem writeByte_e (rs : Bit) (b : Byte) (s : State) : (writeByte rs b s).e = 1#1 := rfl
@[simp] theorem writeByte_d (rs : Bit) (b : Byte) (s : State) : (writeByte rs b s).d = loNibble b := rfl
@[simp] theorem writeByte_live (rs : Bit) (b : Byte) (s : State) : (writeByte rs b s).live = s.live := rfl
@[simp] theorem writeByte_adcCh (rs : Bit) (b : Byte) (s : State) : (writeByte rs b s).adcCh = s.adcCh := rfl
@[simp] theorem writeByte_adcRef (rs : Bit) (b : Byte) (s : State) : (writeByte rs b s).adcRef = s.adcRef := rfl
@[simp] theorem writeByte_pc (rs : Bit) (b : Byte) (s : State) : (writeByte rs b s).pc = s.pc := rfl
@[simp] theorem writeByte_drv (rs : Bit) (b : Byte) (s : State) : (writeByte rs b s).drv = s.drv := rfl
@[simp] theorem writeByte_phase (rs : Bit) (b : Byte) (s : State) : (writeByte rs b s).phase = s.phase := rfl
@[simp] theorem writeByte_conv (rs : Bit) (b : Byte) (s : State) : (writeByte rs b s).conv = s.conv := rfl
@[simp] theorem writeByte_env (rs : Bit) (b : Byte) (s : State) : (writeByte rs b s).env = s.env := rfl
@[simp] theorem writeByte_disp (rs : Bit) (b : Byte) (s : State) : (writeByte rs b s).disp = s.disp.take s.cfg.nCols rs b := rfl
@[simp] theorem writeByte_trace (rs : Bit) (b : Byte) (s : State) : (writeByte rs b s).trace = s.trace ++ byteEvents rs b := rfl

@[simp] theorem resetPhase_cfg (s : State) : (resetPhase s).cfg = s.cfg := rfl
@[simp] theorem resetPhase_rom (s : State) : (resetPhase s).rom = s.rom := rfl
@[simp] theorem resetPhase_raw (s : State) : (resetPhase s).raw = s.raw := rfl
@[simp] theorem resetPhase_scaled (s : State) : (resetPhase s).scaled = s.scaled := rfl
@[simp] theorem resetPhase_ones (s : State) : (resetPhase s).ones = s.ones := rfl
@[simp] theorem resetPhase_decm (s : State) : (resetPhase s).decm = s.decm := rfl
@[simp] theorem resetPhase_rs (s : State) : (resetPhase s).rs = Config.rsCmd := rfl
@[simp] theorem resetPhase_e (s : State) : (resetPhase s).e = 1#1 := rfl
@[simp] theorem resetPhase_d (s : State) : (resetPhase s).d = s.cfg.resetNibble := rfl
@[simp] theorem resetPhase_live (s : State) : (resetPhase s).live = s.live := rfl
@[simp] theorem resetPhase_adcCh (s : State) : (resetPhase s).adcCh = s.adcCh := rfl
@[simp] theorem resetPhase_adcRef (s : State) : (resetPhase s).adcRef = s.adcRef := rfl
@[simp] theorem resetPhase_pc (s : State) : (resetPhase s).pc = s.pc := rfl
@[simp] theorem resetPhase_drv (s : State) : (resetPhase s).drv = s.drv := rfl
@[simp] theorem resetPhase_phase (s : State) : (resetPhase s).phase = s.phase := rfl
@[simp] theorem resetPhase_conv (s : State) : (resetPhase s).conv = s.conv := rfl
@[simp] theorem resetPhase_env (s : State) : (resetPhase s).env = s.env := rfl
@[simp] theorem resetPhase_disp (s : State) : (resetPhase s).disp = s.disp := rfl
@[simp] theorem resetPhase_trace (s : State) : (resetPhase s).trace = s.trace ++ resetEvents s.cfg.resetNibble := rfl

@[simp] theorem configureConverter_cfg (s : State) : (configureConverter s).cfg = s.cfg := rfl
@[simp] theorem configureConverter_rom (s : State) : (configureConverter s).rom = s.rom := rfl
@[simp] theorem configureConverter_raw (s : State) : (configureConverter s).raw = s.raw := rfl
@[simp] theorem configureConverter_scaled (s : State) : (configureConverter s).scaled = s.scaled := rfl
@[simp] theorem configureConverter_ones (s : State) : (configureConverter s).ones = s.ones := rfl
@[simp] theorem configureConverter_decm (s : State) : (configureConverter s).decm = s.decm := rfl
@[simp] theorem configureConverter_rs (s : State) : (configureConverter s).rs = s.rs := rfl
@[simp] theorem configureConverter_e (s : State) : (configureConverter s).e = s.e := rfl
@[simp] theorem configureConverter_d (s : State) : (configureConverter s).d = s.d := rfl
@[simp] theorem configureConverter_live (s : State) : (configureConverter s).live = s.live := rfl
@[simp] theorem configureConverter_adcCh (s : State) : (configureConverter s).adcCh = s.cfg.adcChannel := rfl
@[simp] theorem configureConverter_adcRef (s : State) : (configureConverter s).adcRef = .supply := rfl
@[simp] theorem configureConverter_pc (s : State) : (configureConverter s).pc = s.pc := rfl
@[simp] theorem configureConverter_drv (s : State) : (configureConverter s).drv = s.drv := rfl
@[simp] theorem configureConverter_phase (s : State) : (configureConverter s).phase = s.phase := rfl
@[simp] theorem configureConverter_conv (s : State) : (configureConverter s).conv = s.conv := rfl
@[simp] theorem configureConverter_env (s : State) : (configureConverter s).env = s.env := rfl
@[simp] theorem configureConverter_disp (s : State) : (configureConverter s).disp = s.disp := rfl
@[simp] theorem configureConverter_trace (s : State) : (configureConverter s).trace = s.trace ++ configEvents s.cfg := rfl

@[simp] theorem startConversion_cfg (s : State) : (startConversion s).cfg = s.cfg := rfl
@[simp] theorem startConversion_rom (s : State) : (startConversion s).rom = s.rom := rfl
@[simp] theorem startConversion_raw (s : State) : (startConversion s).raw = s.raw := rfl
@[simp] theorem startConversion_scaled (s : State) : (startConversion s).scaled = s.scaled := rfl
@[simp] theorem startConversion_ones (s : State) : (startConversion s).ones = s.ones := rfl
@[simp] theorem startConversion_decm (s : State) : (startConversion s).decm = s.decm := rfl
@[simp] theorem startConversion_rs (s : State) : (startConversion s).rs = s.rs := rfl
@[simp] theorem startConversion_e (s : State) : (startConversion s).e = s.e := rfl
@[simp] theorem startConversion_d (s : State) : (startConversion s).d = s.d := rfl
@[simp] theorem startConversion_live (s : State) : (startConversion s).live = s.live := rfl
@[simp] theorem startConversion_adcCh (s : State) : (startConversion s).adcCh = s.adcCh := rfl
@[simp] theorem startConversion_adcRef (s : State) : (startConversion s).adcRef = s.adcRef := rfl
@[simp] theorem startConversion_pc (s : State) : (startConversion s).pc = s.pc := rfl
@[simp] theorem startConversion_drv (s : State) : (startConversion s).drv = s.drv := rfl
@[simp] theorem startConversion_phase (s : State) : (startConversion s).phase = .polling := rfl
@[simp] theorem startConversion_conv (s : State) : (startConversion s).conv = .busy := rfl
@[simp] theorem startConversion_env (s : State) : (startConversion s).env = s.env := rfl
@[simp] theorem startConversion_disp (s : State) : (startConversion s).disp = s.disp := rfl
@[simp] theorem startConversion_trace (s : State) : (startConversion s).trace = s.trace ++ [.adcStart] := rfl

@[simp] theorem capture_cfg (v : Nat) (s : State) : (capture v s).cfg = s.cfg := rfl
@[simp] theorem capture_rom (v : Nat) (s : State) : (capture v s).rom = s.rom := rfl
@[simp] theorem capture_raw (v : Nat) (s : State) : (capture v s).raw = some (topByte s.cfg.adcBits v) := rfl
@[simp] theorem capture_scaled (v : Nat) (s : State) : (capture v s).scaled = s.scaled := rfl
@[simp] theorem capture_ones (v : Nat) (s : State) : (capture v s).ones = s.ones := rfl
@[simp] theorem capture_decm (v : Nat) (s : State) : (capture v s).decm = s.decm := rfl
@[simp] theorem capture_rs (v : Nat) (s : State) : (capture v s).rs = s.rs := rfl
@[simp] theorem capture_e (v : Nat) (s : State) : (capture v s).e = s.e := rfl
@[simp] theorem capture_d (v : Nat) (s : State) : (capture v s).d = s.d := rfl
@[simp] theorem capture_live (v : Nat) (s : State) : (capture v s).live = s.live := rfl
@[simp] theorem capture_adcCh (v : Nat) (s : State) : (capture v s).adcCh = s.adcCh := rfl
@[simp] theorem capture_adcRef (v : Nat) (s : State) : (capture v s).adcRef = s.adcRef := rfl
@[simp] theorem capture_pc (v : Nat) (s : State) : (capture v s).pc = s.pc := rfl
@[simp] theorem capture_drv (v : Nat) (s : State) : (capture v s).drv = s.drv := rfl
@[simp] theorem capture_phase (v : Nat) (s : State) : (capture v s).phase = .idle := rfl
@[simp] theorem capture_conv (v : Nat) (s : State) : (capture v s).conv = s.conv := rfl
@[simp] theorem capture_env (v : Nat) (s : State) : (capture v s).env = s.env := rfl
@[simp] theorem capture_disp (v : Nat) (s : State) : (capture v s).disp = s.disp := rfl
@[simp] theorem capture_trace (v : Nat) (s : State) : (capture v s).trace = s.trace ++ [.adcRead v] := rfl

@[simp] theorem formatRegs_cfg (raw : BitVec 8) (s : State) : (formatRegs raw s).cfg = s.cfg := rfl
@[simp] theorem formatRegs_rom (raw : BitVec 8) (s : State) : (formatRegs raw s).rom = s.rom := rfl
@[simp] theorem formatRegs_raw (raw : BitVec 8) (s : State) : (formatRegs raw s).raw = s.raw := rfl
@[simp] theorem formatRegs_scaled (raw : BitVec 8) (s : State) : (formatRegs raw s).scaled = some (scale raw s.cfg.refMv) := rfl
@[simp] theorem formatRegs_ones (raw : BitVec 8) (s : State) : (formatRegs raw s).ones = some (onesOf (scale raw s.cfg.refMv)) := rfl
@[simp] theorem formatRegs_decm (raw : BitVec 8) (s : State) : (formatRegs raw s).decm = some (decmOf (scale raw s.cfg.refMv)) := rfl
@[simp] theorem formatRegs_rs (raw : BitVec 8) (s : State) : (formatRegs raw s).rs = s.rs := rfl
@[simp] theorem formatRegs_e (raw : BitVec 8) (s : State) : (formatRegs raw s).e = s.e := rfl
@[simp] theorem formatRegs_d (raw : BitVec 8) (s : State) : (formatRegs raw s).d = s.d := rfl
@[simp] theorem formatRegs_live (raw : BitVec 8) (s : State) : (formatRegs raw s).live = s.live := rfl
@[simp] theorem formatRegs_adcCh (raw : BitVec 8) (s : State) : (formatRegs raw s).adcCh = s.adcCh := rfl
@[simp] theorem formatRegs_adcRef (raw : BitVec 8) (s : State) : (formatRegs raw s).adcRef = s.adcRef := rfl
@[simp] theorem formatRegs_pc (raw : BitVec 8) (s : State) : (formatRegs raw s).pc = s.pc := rfl
@[simp] theorem formatRegs_drv (raw : BitVec 8) (s : State) : (formatRegs raw s).drv = s.drv := rfl
@[simp] theorem formatRegs_phase (raw : BitVec 8) (s : State) : (formatRegs raw s).phase = s.phase := rfl
@[simp] theorem formatRegs_conv (raw : BitVec 8) (s : State) : (formatRegs raw s).conv = s.conv := rfl
@[simp] theorem formatRegs_env (raw : BitVec 8) (s : State) : (formatRegs raw s).env = s.env := rfl
@[simp] theorem formatRegs_disp (raw : BitVec 8) (s : State) : (formatRegs raw s).disp = s.disp := rfl
@[simp] theorem formatRegs_trace (raw : BitVec 8) (s : State) : (formatRegs raw s).trace = s.trace := rfl

@[simp] theorem jumpTo_cfg (t : StoreAddr) (s : State) : (jumpTo t s).cfg = s.cfg := rfl
@[simp] theorem jumpTo_rom (t : StoreAddr) (s : State) : (jumpTo t s).rom = s.rom := rfl
@[simp] theorem jumpTo_raw (t : StoreAddr) (s : State) : (jumpTo t s).raw = s.raw := rfl
@[simp] theorem jumpTo_scaled (t : StoreAddr) (s : State) : (jumpTo t s).scaled = s.scaled := rfl
@[simp] theorem jumpTo_ones (t : StoreAddr) (s : State) : (jumpTo t s).ones = s.ones := rfl
@[simp] theorem jumpTo_decm (t : StoreAddr) (s : State) : (jumpTo t s).decm = s.decm := rfl
@[simp] theorem jumpTo_rs (t : StoreAddr) (s : State) : (jumpTo t s).rs = s.rs := rfl
@[simp] theorem jumpTo_e (t : StoreAddr) (s : State) : (jumpTo t s).e = s.e := rfl
@[simp] theorem jumpTo_d (t : StoreAddr) (s : State) : (jumpTo t s).d = s.d := rfl
@[simp] theorem jumpTo_live (t : StoreAddr) (s : State) : (jumpTo t s).live = s.live := rfl
@[simp] theorem jumpTo_adcCh (t : StoreAddr) (s : State) : (jumpTo t s).adcCh = s.adcCh := rfl
@[simp] theorem jumpTo_adcRef (t : StoreAddr) (s : State) : (jumpTo t s).adcRef = s.adcRef := rfl
@[simp] theorem jumpTo_pc (t : StoreAddr) (s : State) : (jumpTo t s).pc = t := rfl
@[simp] theorem jumpTo_drv (t : StoreAddr) (s : State) : (jumpTo t s).drv = s.drv := rfl
@[simp] theorem jumpTo_phase (t : StoreAddr) (s : State) : (jumpTo t s).phase = s.phase := rfl
@[simp] theorem jumpTo_conv (t : StoreAddr) (s : State) : (jumpTo t s).conv = s.conv := rfl
@[simp] theorem jumpTo_env (t : StoreAddr) (s : State) : (jumpTo t s).env = s.env := rfl
@[simp] theorem jumpTo_disp (t : StoreAddr) (s : State) : (jumpTo t s).disp = s.disp := rfl
@[simp] theorem jumpTo_trace (t : StoreAddr) (s : State) : (jumpTo t s).trace = s.trace := rfl

@[simp] theorem withDisplay_cfg (d : Display) (s : State) : (s.withDisplay d).cfg = s.cfg := rfl
@[simp] theorem withDisplay_rom (d : Display) (s : State) : (s.withDisplay d).rom = s.rom := rfl
@[simp] theorem withDisplay_raw (d : Display) (s : State) : (s.withDisplay d).raw = s.raw := rfl
@[simp] theorem withDisplay_scaled (d : Display) (s : State) : (s.withDisplay d).scaled = s.scaled := rfl
@[simp] theorem withDisplay_ones (d : Display) (s : State) : (s.withDisplay d).ones = s.ones := rfl
@[simp] theorem withDisplay_decm (d : Display) (s : State) : (s.withDisplay d).decm = s.decm := rfl
@[simp] theorem withDisplay_rs (d : Display) (s : State) : (s.withDisplay d).rs = s.rs := rfl
@[simp] theorem withDisplay_e (d : Display) (s : State) : (s.withDisplay d).e = s.e := rfl
@[simp] theorem withDisplay_d (d : Display) (s : State) : (s.withDisplay d).d = s.d := rfl
@[simp] theorem withDisplay_live (d : Display) (s : State) : (s.withDisplay d).live = s.live := rfl
@[simp] theorem withDisplay_adcCh (d : Display) (s : State) : (s.withDisplay d).adcCh = s.adcCh := rfl
@[simp] theorem withDisplay_adcRef (d : Display) (s : State) : (s.withDisplay d).adcRef = s.adcRef := rfl
@[simp] theorem withDisplay_pc (d : Display) (s : State) : (s.withDisplay d).pc = s.pc := rfl
@[simp] theorem withDisplay_drv (d : Display) (s : State) : (s.withDisplay d).drv = s.drv := rfl
@[simp] theorem withDisplay_phase (d : Display) (s : State) : (s.withDisplay d).phase = s.phase := rfl
@[simp] theorem withDisplay_conv (d : Display) (s : State) : (s.withDisplay d).conv = s.conv := rfl
@[simp] theorem withDisplay_env (d : Display) (s : State) : (s.withDisplay d).env = s.env := rfl
@[simp] theorem withDisplay_disp (d : Display) (s : State) : (s.withDisplay d).disp = d := rfl
@[simp] theorem withDisplay_trace (d : Display) (s : State) : (s.withDisplay d).trace = s.trace := rfl

/-- The ten events of a byte transfer are those R122 lists. -/
theorem byteEvents_eq_ten (rs : Bit) (b : Byte) : byteEvents rs b = tenEvents rs b := rfl

/-- The fifteen events of the reset phase are those R140 lists. -/
theorem resetEvents_eq_fifteen (n : Nibble) : resetEvents n = fifteenEvents n := rfl

end Sys2Proof.Machine
end

