-- ==== Sys2Proof/Laws/Memory.lean ====
section
/-! SUPPORT. The laws of the display memory: reads after writes and after a fill, the canonical form, and that canonical
memories with the same reads are equal. -/

namespace Sys2Proof.Machine

@[simp] theorem Memory.read_nil (a : Nat) : Memory.read [] a = none := rfl

theorem Memory.read_cons (b : Nat) (v : Byte) (m : Memory) (a : Nat) :
    Memory.read ((b, v) :: m) a = if a = b then some v else Memory.read m a := rfl

/-- A read after a write, anywhere. -/
theorem Memory.read_write (m : Memory) (a : Nat) (v : Byte) (b : Nat) :
    Memory.read (Memory.write a v m) b = if b = a then some v else Memory.read m b := by
  induction m with
  | nil => simp [Memory.write, Memory.read_cons]
  | cons x m ih =>
    obtain ⟨c, w⟩ := x
    simp only [Memory.write]
    split
    · simp [Memory.read_cons]
    · split
      · simp only [Memory.read_cons]; split <;> simp_all
      · simp only [Memory.read_cons, ih]; split <;> split <;> simp_all

@[simp] theorem Memory.read_write_same (m : Memory) (a : Nat) (v : Byte) :
    Memory.read (Memory.write a v m) a = some v := by
  simp [Memory.read_write]

theorem Memory.read_write_other (m : Memory) (a : Nat) (v : Byte) {b : Nat} (h : b ≠ a) :
    Memory.read (Memory.write a v m) b = Memory.read m b := by
  simp [Memory.read_write, h]

theorem Memory.rises_cons (lo a : Nat) (v : Byte) (m : Memory) :
    Memory.rises lo ((a, v) :: m) = true ↔ lo ≤ a ∧ a < 128 ∧ Memory.rises (a + 1) m = true := by
  simp only [Memory.rises, Bool.and_eq_true, decide_eq_true_eq, and_assoc]
  rfl

/-- A write keeps the canonical form from any lower bound it respects. -/
theorem Memory.rises_write (m : Memory) (lo a : Nat) (v : Byte) (hlo : lo ≤ a) (ha : a < 128)
    (h : Memory.rises lo m = true) : Memory.rises lo (Memory.write a v m) = true := by
  induction m generalizing lo with
  | nil => simp [Memory.write, Memory.rises, Memory.size, hlo, ha]
  | cons x m ih =>
    obtain ⟨c, w⟩ := x
    rw [Memory.rises_cons] at h
    simp only [Memory.write]
    split
    · rw [Memory.rises_cons, Memory.rises_cons]; exact ⟨hlo, ha, by omega, h.2.1, h.2.2⟩
    · split
      · subst a; simp only [Memory.rises_cons]; exact h
      · simp only [Memory.rises_cons]
        exact ⟨h.1, h.2.1, ih (c + 1) (by omega) h.2.2⟩

theorem Memory.wf_nil : Memory.wf [] = true := rfl

/-- A write below 128 keeps the canonical form. -/
theorem Memory.wf_write (m : Memory) (a : Nat) (v : Byte) (ha : a < 128) (h : Memory.wf m = true) :
    Memory.wf (Memory.write a v m) = true :=
  Memory.rises_write m 0 a v (Nat.zero_le a) ha h

/-- Consecutive addresses below 128, all with one code, are canonical. -/
theorem Memory.rises_range' (v : Byte) (n lo : Nat) (h : lo + n ≤ 128) :
    Memory.rises lo ((List.range' lo n).map fun a => (a, v)) = true := by
  induction n generalizing lo with
  | zero => rfl
  | succ n ih =>
    rw [List.range'_succ, List.map_cons, Memory.rises_cons]
    exact ⟨Nat.le_refl _, by omega, ih (lo + 1) (by omega)⟩

/-- A filled memory is canonical. -/
theorem Memory.wf_fill (v : Byte) : Memory.wf (Memory.fill v) = true := by
  rw [Memory.wf, Memory.fill, List.range_eq_range']
  exact Memory.rises_range' v Memory.size 0 (Nat.le_refl _)

theorem Memory.read_map_code (as : List Nat) (v : Byte) (a : Nat) :
    Memory.read (as.map fun b => (b, v)) a = if a ∈ as then some v else none := by
  induction as with
  | nil => simp
  | cons b as ih => simp only [List.map_cons, Memory.read_cons, ih, List.mem_cons]; split <;> simp_all

/-- Every cell of a filled memory holds the code. -/
theorem Memory.read_fill (v : Byte) (a : Nat) :
    Memory.read (Memory.fill v) a = if a < 128 then some v else none := by
  simp [Memory.fill, Memory.read_map_code, Memory.size]

/-- Nothing is listed below the first address. -/
theorem Memory.read_below (m : Memory) (lo a : Nat) (h : Memory.rises lo m = true) (ha : a < lo) :
    Memory.read m a = none := by
  induction m generalizing lo with
  | nil => rfl
  | cons x m ih =>
    obtain ⟨c, w⟩ := x
    rw [Memory.rises_cons] at h
    rw [Memory.read_cons, if_neg (by omega)]
    exact ih (c + 1) h.2.2 (by omega)

/-- Canonical memories that read the same everywhere are the same list. -/
theorem Memory.ext_of_rises (m n : Memory) (lo : Nat) (hm : Memory.rises lo m = true)
    (hn : Memory.rises lo n = true) (h : ∀ a, Memory.read m a = Memory.read n a) : m = n := by
  induction m generalizing lo n with
  | nil =>
    cases n with
    | nil => rfl
    | cons y n => obtain ⟨c, w⟩ := y; have := h c; simp [Memory.read_cons] at this
  | cons x m ih =>
    obtain ⟨b, v⟩ := x
    cases n with
    | nil => have := h b; simp [Memory.read_cons] at this
    | cons y n =>
      obtain ⟨c, w⟩ := y
      rw [Memory.rises_cons] at hm hn
      have hb := h b
      have hc := h c
      have hmb := Memory.read_below m (b + 1) b hm.2.2 (by omega)
      have hnc := Memory.read_below n (c + 1) c hn.2.2 (by omega)
      have hbc : b = c := by
        rcases Nat.lt_trichotomy b c with hlt | heq | hgt
        · have := Memory.read_below n (c + 1) b hn.2.2 (by omega)
          simp [Memory.read_cons, this, Nat.ne_of_lt hlt] at hb
        · exact heq
        · have := Memory.read_below m (b + 1) c hm.2.2 (by omega)
          simp [Memory.read_cons, this, Nat.ne_of_lt hgt] at hc
      subst hbc
      have hvw : v = w := by simpa [Memory.read_cons] using hb
      subst hvw
      have hmn : m = n := by
        refine ih n (b + 1) hm.2.2 hn.2.2 fun a => ?_
        by_cases hab : a = b
        · subst hab; rw [hmb, hnc]
        · simpa [Memory.read_cons, hab] using h a
      rw [hmn]

/-- Canonical memories are determined by their reads. -/
theorem Memory.ext_of_wf {m n : Memory} (hm : Memory.wf m = true) (hn : Memory.wf n = true)
    (h : ∀ a, Memory.read m a = Memory.read n a) : m = n :=
  Memory.ext_of_rises m n 0 hm hn h

end Sys2Proof.Machine
end

