-- ==== Sys2Proof/Laws/Display.lean ====
section
/-! SUPPORT. The laws of the display observer: what a transfer can do to each part of it. -/

namespace Sys2Proof.Machine

/-- Every display address is below 128. -/
theorem dispAddr_lt (a : DispAddr) : a.toNat < 128 := a.isLt

/-- A data byte at a cursor that is known and visible (R84). -/
theorem Display.putData_visible {nCols : Nat} {d : Display} {a : DispAddr} (c : Byte) (h : d.target nCols = some a) :
    d.putData nCols c = { d with cells := Memory.write a.toNat c d.cells, cur := cursorAfter a } := by
  simp [Display.putData, h]

/-- A data byte anywhere else (R84). -/
theorem Display.putData_hidden {nCols : Nat} {d : Display} (c : Byte) (h : d.target nCols = none) :
    d.putData nCols c = { d with poison := true } := by
  simp [Display.putData, h]

/-- The target of a data byte is the cursor. -/
theorem Display.cur_of_target {nCols : Nat} {d : Display} {a : DispAddr} (h : d.target nCols = some a) :
    d.cur = some a := by
  unfold Display.target at h
  split at h
  · split at h <;> simp_all
  · simp at h

/-- No transfer starts or stops the observer. -/
@[simp] theorem Display.take_active (nCols : Nat) (rs : Bit) (b : Byte) (d : Display) :
    (d.take nCols rs b).active = d.active := by
  unfold Display.take Display.putData Display.command
  repeat' split
  all_goals simp_all [Display.setCursor, Display.clearHome, Display.undefinedEffect, Display.restate, Display.switch]

/-- No transfer clears the poison (R86). -/
theorem Display.take_poison {nCols : Nat} {rs : Bit} {b : Byte} {d : Display} (h : d.poison = true) :
    (d.take nCols rs b).poison = true := by
  unfold Display.take Display.putData Display.command
  repeat' split
  all_goals simp_all [Display.setCursor, Display.clearHome, Display.undefinedEffect, Display.restate, Display.switch]

/-- An inactive observer ignores every transfer (R81). -/
theorem Display.take_inactive {nCols : Nat} {rs : Bit} {b : Byte} {d : Display} (h : d.active = false) :
    d.take nCols rs b = d := by
  simp [Display.take, h]

/-- An active observer on a data byte. -/
theorem Display.take_data {nCols : Nat} {b : Byte} {d : Display} (h : d.active = true) :
    d.take nCols Config.rsData b = d.putData nCols b := by
  simp [Display.take, h]

/-- An active observer on a command byte. -/
theorem Display.take_command {nCols : Nat} {b : Byte} {d : Display} (h : d.active = true) :
    d.take nCols Config.rsCmd b = d.command b := by
  simp [Display.take, h, Config.rsCmd, Config.rsData]

/-- Every transfer keeps the display memory canonical. -/
theorem Display.take_wf {nCols : Nat} {rs : Bit} {b : Byte} {d : Display} (h : Memory.wf d.cells = true) :
    Memory.wf (d.take nCols rs b).cells = true := by
  unfold Display.take Display.putData Display.command
  repeat' split
  all_goals
    simp_all [Display.setCursor, Display.clearHome, Display.undefinedEffect, Display.restate, Display.switch,
      Memory.wf_fill, Memory.wf_write, dispAddr_lt]

/-- A command byte other than the clear command changes no cell (R83, R85, R86). -/
theorem Display.command_cells {b : Byte} (d : Display) (h : b ≠ 0x01#8) : (d.command b).cells = d.cells := by
  unfold Display.command
  repeat' split
  all_goals simp_all [Display.setCursor, Display.undefinedEffect, Display.restate, Display.switch]

@[simp] theorem Display.takeAll_nil (nCols : Nat) (d : Display) : d.takeAll nCols [] = d := rfl

@[simp] theorem Display.takeAll_cons (nCols : Nat) (d : Display) (x : Bit × Byte) (xs : List (Bit × Byte)) :
    d.takeAll nCols (x :: xs) = (d.take nCols x.1 x.2).takeAll nCols xs := rfl

@[simp] theorem Display.takeAll_append (nCols : Nat) (d : Display) (xs ys : List (Bit × Byte)) :
    d.takeAll nCols (xs ++ ys) = (d.takeAll nCols xs).takeAll nCols ys := by
  simp [Display.takeAll, List.foldl_append]

end Sys2Proof.Machine
end

