-- ==== Sys2Proof/Laws/Ops.lean ====
section
/-! SUPPORT. One specification lemma for each shared operation: what it answers, and everything it can do. -/

namespace Sys2Proof.Machine

/-- If `advance` answers a next state, only `pc` moved, by one. -/
theorem advance_next {s t : State} (h : advance s = .next t) : s.pc ≠ 15#4 ∧ t = { s with pc := s.pc + 1#4 } := by
  unfold advance at h
  split at h
  · simp at h
  · simp only [Host.Outcome.next.injEq] at h; exact ⟨‹_›, h.symm⟩

theorem advance_eq {s : State} (h : s.pc ≠ 15#4) : advance s = .next { s with pc := s.pc + 1#4 } := by
  simp [advance, h]

theorem advance_top {s : State} (h : s.pc = 15#4) : advance s = .refused (.pcPastEndOfProgramStore s) := by
  simp [advance, h]

theorem ifReady_next {s t : State} {r : Result} (h : ifReady s r = .next t) : s.drv = .ready ∧ r = .next t := by
  unfold ifReady at h
  split at h
  · exact ⟨‹_›, h⟩
  · simp at h

theorem ifReady_eq {s : State} {r : Result} (h : s.drv = .ready) : ifReady s r = r := by simp [ifReady, h]

theorem ifReady_refused {s : State} {r : Result} (h : s.drv = .uninitialized) :
    ifReady s r = .refused .displayOperationBeforeInit := by simp [ifReady, h]

theorem ifUninitialized_next {s t : State} {r : Result} (h : ifUninitialized s r = .next t) :
    s.drv = .uninitialized ∧ r = .next t := by
  unfold ifUninitialized at h
  split at h
  · exact ⟨‹_›, h⟩
  · simp at h

theorem withValue_next {α : Type} {reg : Option α} {k : α → Result} {t : State} (h : withValue reg k = .next t) :
    ∃ v, reg = some v ∧ k v = .next t := by
  unfold withValue at h
  split at h
  · exact ⟨_, rfl, h⟩
  · simp at h

/-- Bytes of one level in order; both `sendText` and `sendCommands` are this. -/
def sendBytes (rs : Bit) (bytes : List Byte) (s : State) : State := bytes.foldl (fun s b => writeByte rs b s) s

theorem sendBytes_cons (rs : Bit) (b : Byte) (bytes : List Byte) (s : State) :
    sendBytes rs (b :: bytes) s = sendBytes rs bytes (writeByte rs b s) := rfl

theorem sendText_eq_sendBytes (text : List Byte) (s : State) : sendText text s = sendBytes Config.rsData text s := by
  induction text generalizing s with
  | nil => rfl
  | cons c text ih => rw [sendText, ih, sendBytes_cons]

theorem sendCommands_eq_sendBytes (bytes : List Byte) (s : State) :
    sendCommands bytes s = sendBytes Config.rsCmd bytes s := by
  induction bytes generalizing s with
  | nil => rfl
  | cons c text ih => rw [sendCommands, ih, sendBytes_cons]

/-- Everything sending bytes does: the registers of the lines follow the last byte, the trace and the display every byte. -/
theorem sendBytes_eq (rs : Bit) (bytes : List Byte) (s : State) :
    sendBytes rs bytes s =
      { s with
        rs := if bytes = [] then s.rs else rs
        d := (bytes.getLast?.map loNibble).getD s.d
        e := if bytes = [] then s.e else 1#1
        trace := s.trace ++ (bytes.map (byteEvents rs)).flatten
        disp := s.disp.takeAll s.cfg.nCols (bytes.map fun b => (rs, b)) } := by
  induction bytes generalizing s with
  | nil => simp [sendBytes]
  | cons b bytes ih =>
    rw [sendBytes_cons, ih]
    cases bytes <;> simp [writeByte, List.getLast?_cons]

/-- The words of a `PUTS` that fit below the top of the store send their characters and advance `pc` by as many. -/
theorem wdatEach_eq (text : List Byte) (s : State) (h : s.pc.toNat + text.length < 16) :
    wdatEach text s = .next { sendText text s with pc := s.pc + BitVec.ofNat 4 text.length } := by
  induction text generalizing s with
  | nil => simp [wdatEach, sendText]
  | cons c text ih =>
    rw [List.length_cons] at h
    have hpc : s.pc ≠ 15#4 := by
      intro hc; rw [hc, BitVec.toNat_ofNat] at h; omega
    have hlt : (s.pc + 1#4).toNat = s.pc.toNat + 1 := by
      rw [BitVec.toNat_add, BitVec.toNat_ofNat]; omega
    rw [wdatEach, advance_eq (by simpa using hpc)]
    simp only [writeByte_pc]
    rw [ih _ (by rw [hlt]; omega)]
    have hadd : s.pc + 1#4 + BitVec.ofNat 4 text.length = s.pc + BitVec.ofNat 4 (text.length + 1) := by
      apply BitVec.eq_of_toNat_eq; simp [BitVec.toNat_add]; omega
    simp only [sendText_eq_sendBytes, sendBytes_eq, List.length_cons, hadd]
    cases text <;> simp [writeByte, List.getLast?_cons]

end Sys2Proof.Machine
end

