-- ==== Sys2Proof/Laws/Inversion.lean ====
section
/-! SUPPORT. What each instruction can have done when it answers a next state, said once: the sampler, INIT, the operations
that are a list of byte transfers, the frames of the display controller. Proofs about all steps cite these and unfold
no meaning. -/

namespace Sys2Proof.Machine

/-! ## Operations that are a list of byte transfers -/

/-- The events of byte transfers one after the other. -/
def transferEvents (xs : List (Bit × Byte)) : List Event := (xs.map fun x => byteEvents x.1 x.2).flatten

theorem transferEvents_one (x : Bit × Byte) : transferEvents [x] = byteEvents x.1 x.2 := by
  simp [transferEvents]

theorem transferEvents_append (xs ys : List (Bit × Byte)) :
    transferEvents (xs ++ ys) = transferEvents xs ++ transferEvents ys := by
  simp [transferEvents]

theorem byteEvents_map (rs : Bit) (bytes : List Byte) :
    (bytes.map (byteEvents rs)).flatten = transferEvents (bytes.map fun b => (rs, b)) := by
  rw [transferEvents, List.map_map]; rfl

/-- From `s` to `t` the transfers `xs` were made and the events `evs` emitted; nothing but the lines, `pc`, the display
and the trace can differ, and the strobe line stays at rest. -/
def Sends (s t : State) (xs : List (Bit × Byte)) (evs : List Event) : Prop :=
  ∃ (p : StoreAddr) (r e : Bit) (n : Nibble),
    t = { s with rs := r, d := n, e := e, pc := p, disp := s.disp.takeAll s.cfg.nCols xs, trace := s.trace ++ evs } ∧
    (s.e = 1#1 → e = 1#1)

theorem Sends.refl (s : State) : Sends s s [] [] := ⟨s.pc, s.rs, s.e, s.d, by simp, id⟩

theorem Sends.with_pc {s t : State} {xs evs} (h : Sends s t xs evs) (p : StoreAddr) :
    Sends s { t with pc := p } xs evs := by
  obtain ⟨_, r, e, n, rfl, he⟩ := h; exact ⟨p, r, e, n, rfl, he⟩

theorem Sends.trans {s t u : State} {xs ys evs fvs} (h : Sends s t xs evs) (h' : Sends t u ys fvs) :
    Sends s u (xs ++ ys) (evs ++ fvs) := by
  obtain ⟨_, _, _, _, rfl, he⟩ := h
  obtain ⟨p, r, e, n, rfl, he'⟩ := h'
  exact ⟨p, r, e, n, by simp, fun hs => he' (he hs)⟩

theorem sends_emit (s : State) (evs : List Event) : Sends s (emit evs s) [] evs :=
  ⟨s.pc, s.rs, s.e, s.d, by simp [emit], id⟩

theorem sends_writeByte (rs : Bit) (b : Byte) (s : State) : Sends s (writeByte rs b s) [(rs, b)] (byteEvents rs b) :=
  ⟨s.pc, _, _, _, rfl, fun _ => rfl⟩

theorem sends_advanced (rs : Bit) (b : Byte) (s : State) :
    Sends s { writeByte rs b s with pc := (writeByte rs b s).pc + 1#4 } [(rs, b)] (transferEvents [(rs, b)]) := by
  rw [transferEvents_one]
  exact (sends_writeByte rs b s).with_pc _

theorem sends_sendText (text : List Byte) (s : State) :
    Sends s (sendText text s) (text.map fun c => (1#1, c)) (transferEvents (text.map fun c => (1#1, c))) := by
  rw [sendText_eq_sendBytes, sendBytes_eq, ← byteEvents_map]
  exact ⟨s.pc, _, _, _, rfl, by intro h; split <;> simp_all⟩

theorem sends_wdatEach (text : List Byte) (s t : State) (h : wdatEach text s = .next t) :
    Sends s t (text.map fun c => (1#1, c)) (transferEvents (text.map fun c => (1#1, c))) := by
  induction text generalizing s with
  | nil =>
    simp only [wdatEach, Host.Outcome.next.injEq] at h
    subst h; exact Sends.refl s
  | cons c text ih =>
    rw [wdatEach] at h
    cases hu : advance (writeByte Config.rsData c s) with
    | next u =>
      simp only [hu] at h
      obtain ⟨_, rfl⟩ := advance_next hu
      exact ((sends_writeByte _ _ _).with_pc _).trans (ih _ h)
    | fault f => simp [hu] at h
    | refused r => simp [hu] at h

/-- The operations that are byte transfers and nothing else but a delay. -/
inductive Sender : Instr → Prop where
  | clear : Sender .clear
  | goto (a : DispAddr) : Sender (.goto a)
  | goto2 : Sender .goto2
  | wcmd (b : Byte) : Sender (.wcmd b)
  | wdat (b : Byte) : Sender (.wdat b)
  | clr2 : Sender .clr2
  | render : Sender .render
  | puts (text : List Byte) : Sender (.puts text)
  | wbyte (rs : Bit) (b : Byte) : Sender (.wbyte rs b)

/-- The transfers of `CLR2` (R144). -/
def clr2Transfers (nCols : Nat) : List (Bit × Byte) :=
  (0#1, 0xA8#8) :: (List.replicate nCols (1#1, 0x20#8) ++ [(0#1, 0xA8#8)])

/-- The set-cursor byte of line 2 is `0xA8` (R94). -/
theorem setCursorByte_line2 : setCursorByte Config.line2Addr = 0xA8#8 := by decide

theorem sends_blankLine2 (s : State) :
    Sends s (blankLine2 s) (clr2Transfers s.cfg.nCols) (transferEvents (clr2Transfers s.cfg.nCols)) := by
  have h1 := sends_writeByte 0#1 0xA8#8 s
  have h2 := sends_sendText (List.replicate s.cfg.nCols Config.blank) (writeByte 0#1 0xA8#8 s)
  have h3 := sends_writeByte 0#1 0xA8#8
    (sendText (List.replicate s.cfg.nCols Config.blank) (writeByte 0#1 0xA8#8 s))
  have h := h1.trans (h2.trans h3)
  have hd : blankLine2 s =
      writeByte 0#1 0xA8#8 (sendText (List.replicate s.cfg.nCols Config.blank) (writeByte 0#1 0xA8#8 s)) := by
    unfold blankLine2 homeLine2; rw [setCursorByte_line2]; rfl
  rw [hd]
  simpa [clr2Transfers, transferEvents, Config.blank] using h

/-- What a sender did: some list of transfers, in this order, and after `CLEAR` its delay. -/
theorem sender_next {i : Instr} {s t : State} (hi : Sender i) (h : exec i s = .next t) :
    ∃ xs, Sends s t xs (transferEvents xs ++ if i = .clear then [.delay Config.tClear] else []) := by
  cases hi with
  | clear =>
    obtain ⟨_, h⟩ := ifReady_next h
    obtain ⟨_, rfl⟩ := advance_next h
    refine ⟨[(0#1, 0x01#8)], ?_⟩
    rw [transferEvents_one, if_pos rfl]
    exact ((sends_writeByte _ _ _).trans (sends_emit _ _)).with_pc _
  | goto a =>
    obtain ⟨_, h⟩ := ifReady_next h
    obtain ⟨_, rfl⟩ := advance_next h
    exact ⟨_, by simpa using sends_advanced Config.rsCmd (setCursorByte a) s⟩
  | goto2 =>
    obtain ⟨_, h⟩ := ifReady_next h
    obtain ⟨_, rfl⟩ := advance_next h
    exact ⟨_, by simpa [homeLine2] using sends_advanced Config.rsCmd (setCursorByte Config.line2Addr) s⟩
  | wcmd b =>
    obtain ⟨_, h⟩ := ifReady_next h
    obtain ⟨_, rfl⟩ := advance_next h
    exact ⟨_, by simpa using sends_advanced Config.rsCmd b s⟩
  | wdat b =>
    obtain ⟨_, h⟩ := ifReady_next h
    obtain ⟨_, rfl⟩ := advance_next h
    exact ⟨_, by simpa using sends_advanced Config.rsData b s⟩
  | clr2 =>
    obtain ⟨_, h⟩ := ifReady_next h
    obtain ⟨_, rfl⟩ := advance_next h
    exact ⟨_, by simpa using (sends_blankLine2 s).with_pc _⟩
  | render =>
    obtain ⟨_, h⟩ := ifReady_next h
    obtain ⟨o, _, h⟩ := withValue_next h
    obtain ⟨m, _, h⟩ := withValue_next h
    obtain ⟨_, rfl⟩ := advance_next h
    exact ⟨_, by simpa using (sends_sendText (text7 o m) s).with_pc _⟩
  | puts text =>
    obtain ⟨_, h⟩ := ifReady_next h
    exact ⟨_, by simpa using sends_wdatEach text s t h⟩
  | wbyte rs b =>
    simp only [exec, execWbyte, Host.Outcome.next.injEq] at h
    subst h
    exact ⟨[(rs, b)], by simpa [transferEvents_one] using sends_writeByte rs b s⟩

/-! ## INIT -/

/-- What `INIT` did (R140, R81). -/
theorem init_next {s t : State} (h : exec .init s = .next t) :
    s.drv = .uninitialized ∧
    t = { s with
          rs := 0#1, d := 0x6#4, e := 1#1, drv := .ready, pc := s.pc + 1#4
          disp := (s.disp.takeAll s.cfg.nCols (modeCommands.map fun b => (0#1, b))).start
          trace := s.trace ++ (resetEvents s.cfg.resetNibble ++ transferEvents (modeCommands.map fun b => (0#1, b))) } := by
  obtain ⟨h1, h⟩ := ifUninitialized_next h
  obtain ⟨_, rfl⟩ := advance_next h
  refine ⟨h1, ?_⟩
  simp only [sendCommands_eq_sendBytes, sendBytes_eq, byteEvents_map, resetPhase]
  simp [modeCommands, Config.rsCmd, loNibble]

/-! ## SAMPLE -/

/-- What a step of `SAMPLE` did: started a conversion, captured a completed one, or polled a 0 (R160 to R166). -/
theorem sample_next {s t : State} (h : exec .sample s = .next t) :
    (s.phase = .idle ∧ ∃ c,
      t = { s with adcCh := s.cfg.adcChannel, adcRef := .supply, phase := .polling, conv := c, env := s.env + 1,
                   trace := s.trace ++ (configEvents s.cfg ++ [.adcStart]) } ∧
      (c = .busy ∨ ∃ v, c = .done v ∧ v < 2 ^ s.cfg.adcBits)) ∨
    (s.phase = .polling ∧ ∃ v, s.conv = .done v ∧ s.pc ≠ 15#4 ∧
      t = { s with raw := some (topByte s.cfg.adcBits v), phase := .idle, pc := s.pc + 1#4,
                   trace := s.trace ++ [.adcPoll 1#1, .adcRead v] }) ∨
    (s.phase = .polling ∧ (∀ v, s.conv ≠ .done v) ∧ ∃ c,
      t = { s with conv := c, env := s.env + 1, trace := s.trace ++ [.adcPoll 0#1] } ∧
      (c = s.conv ∨ ∃ v, c = .done v ∧ v < 2 ^ s.cfg.adcBits)) := by
  have hlt : ∀ v, v % 2 ^ s.cfg.adcBits < 2 ^ s.cfg.adcBits := fun v => Nat.mod_lt _ (Nat.two_pow_pos _)
  rw [exec, execSample] at h
  cases hp : s.phase with
  | idle =>
    simp only [hp, sampleStart] at h
    refine .inl ⟨rfl, ?_⟩
    cases hc : Config.conversion s.env with
    | none =>
      simp [hc, converterMoves] at h
      exact ⟨.busy, by simp [← h], .inl rfl⟩
    | some v =>
      simp [hc, converterMoves] at h
      exact ⟨.done (v % 2 ^ s.cfg.adcBits), by simp [← h], .inr ⟨_, rfl, hlt v⟩⟩
  | polling =>
    simp only [hp, samplePoll] at h
    refine .inr ?_
    cases hc : s.conv with
    | done v =>
      simp only [hc] at h
      obtain ⟨h1, h2⟩ := advance_next h
      exact .inl ⟨rfl, v, rfl, by simpa using h1, by simp [h2, capture, emit, adcDone, hc]⟩
    | busy =>
      simp only [hc] at h
      refine .inr ⟨rfl, by simp, ?_⟩
      cases hcc : Config.conversion s.env with
      | none =>
        simp [hcc, converterMoves, hc, emit, adcDone] at h
        exact ⟨.busy, by simp [← h, hp], .inl rfl⟩
      | some v =>
        simp [hcc, converterMoves, hc, emit, adcDone] at h
        exact ⟨.done (v % 2 ^ s.cfg.adcBits), by simp [← h, hp], .inr ⟨_, rfl, hlt v⟩⟩
    | idle =>
      simp only [hc] at h
      refine .inr ⟨rfl, by simp, .idle, ?_, .inl rfl⟩
      cases hcc : Config.conversion s.env <;> simp [hcc, converterMoves, hc, emit, adcDone] at h <;> simp [← h, hp]

/-! ## The other instructions -/

/-- What `FORMAT` did (R175). -/
theorem format_next {s t : State} (h : exec .format s = .next t) :
    ∃ raw, s.raw = some raw ∧
      t = { s with scaled := some (scale raw s.cfg.refMv), ones := some (onesOf (scale raw s.cfg.refMv)),
                   decm := some (decmOf (scale raw s.cfg.refMv)), pc := s.pc + 1#4 } := by
  obtain ⟨raw, h1, h2⟩ := withValue_next h
  obtain ⟨_, rfl⟩ := advance_next h2
  exact ⟨raw, h1, by simp [formatRegs]⟩

/-- What driving the liveness line and advancing did (R197). -/
theorem live_next {v : Bit} {s t : State} (h : advance (driveLive v s) = .next t) :
    t = { s with live := v, trace := s.trace ++ [.live v], pc := s.pc + 1#4 } := (advance_next h).2

/-- What `WAIT` did (R198). -/
theorem wait_next {s t : State} (h : exec .wait s = .next t) :
    t = { s with trace := s.trace ++ [.delay Config.tRefresh], pc := s.pc + 1#4 } := (advance_next h).2

/-- What an instruction of the display controller did: only the display, and only while the observer is active. -/
theorem observe_next {f : Display → Display} {s t : State}
    (h : (Host.Outcome.next (observe f s) : Result) = .next t) :
    t = { s with disp := if s.disp.active then f s.disp else s.disp } := by
  simp only [Host.Outcome.next.injEq] at h
  subst h; unfold observe; split <;> rfl

/-- The instructions of the display controller. -/
inductive ControllerInstr : Instr → Prop where
  | clearHome : ControllerInstr .lcdClearHome
  | mode4Init : ControllerInstr .lcdMode4Init
  | entryInc : ControllerInstr .lcdEntryInc
  | displayOff : ControllerInstr .lcdDisplayOff
  | displayOn : ControllerInstr .lcdDisplayOn
  | func : ControllerInstr .lcdFunc4Bit2Line
  | setAddr (a : DispAddr) : ControllerInstr (.lcdSetAddr a)
  | data (c : Byte) : ControllerInstr (.lcdData c)

/-- An instruction of the display controller is one transfer taken by the observer. -/
theorem controller_next {i : Instr} {s t : State} (hi : ControllerInstr i) (h : exec i s = .next t) :
    ∃ rs b, t = s.withDisplay (s.disp.take s.cfg.nCols rs b) := by
  have hcmd : ∀ (f : Display → Display) (b : Byte), (∀ d, Display.command b d = f d) →
      (Host.Outcome.next (observe f s) : Result) = .next t →
      ∃ rs b, t = s.withDisplay (s.disp.take s.cfg.nCols rs b) := by
    intro f b hf h
    refine ⟨Config.rsCmd, b, ?_⟩
    rw [observe_next h]
    cases ha : s.disp.active with
    | false => simp [Display.take_inactive ha, State.withDisplay]
    | true => simp [Display.take_command ha, State.withDisplay, hf]
  cases hi with
  | clearHome => exact hcmd _ 0x01#8 (fun _ => rfl) h
  | mode4Init => exact hcmd _ 0x02#8 (fun _ => rfl) h
  | entryInc => exact hcmd _ 0x06#8 (fun _ => rfl) h
  | displayOff => exact hcmd _ 0x08#8 (fun _ => rfl) h
  | displayOn => exact hcmd _ 0x0C#8 (fun _ => rfl) h
  | func => exact hcmd _ 0x28#8 (fun _ => rfl) h
  | setAddr a =>
    refine hcmd _ (setCursorByte a) (fun d => ?_) h
    have h1 : ∀ a : DispAddr, (setCursorByte a).msb = true := by decide
    have h2 : ∀ a : DispAddr, (setCursorByte a).extractLsb' 0 7 = a := by decide
    rw [Display.command, h1 a, h2 a]; rfl
  | data c =>
    refine ⟨Config.rsData, c, ?_⟩
    rw [observe_next h]
    cases ha : s.disp.active with
    | false => simp [Display.take_inactive ha, State.withDisplay]
    | true => simp [Display.take_data ha, State.withDisplay]

end Sys2Proof.Machine
end

