-- ==== Sys2Proof/Laws/Monitor.lean ====
section
/-! SUPPORT. What the protocol monitor of Safety.lean makes of the event lists the operations emit. -/

namespace Sys2Proof.Machine

/-- The monitor goes on where it stood. -/
theorem monitor_append (tr evs : List Event) : monitor (tr ++ evs) = evs.foldl Monitor.next (monitor tr) := by
  simp [monitor, List.foldl_append]

/-- The two nibbles of a byte give the byte back. -/
theorem nibbles_join (b : Byte) : hiNibble b ++ loNibble b = b := by
  revert b; decide

/-- A byte transfer on a free, settled interface ends free and settled, with two latch events, high nibble first, and one
transfer (R125). -/
theorem monitor_byteEvents (m : Monitor) (rs : Bit) (b : Byte) (hf : m.stage = .free) (hs : m.settled = true) :
    (byteEvents rs b).foldl Monitor.next m =
      { stage := .free, settled := true, rs := rs, d := loNibble b, hi := hiNibble b,
        latches := m.latches ++ [(rs, hiNibble b), (rs, loNibble b)],
        transfers := m.transfers ++ [(rs, b)] } := by
  obtain ⟨st, se, r, d, hi, la, tr⟩ := m
  simp only at hf hs
  subst hf hs
  simp [byteEvents, nibbleEvents, strobeEvents, Monitor.next, Monitor.nextStage, Stage.ensure, Event.waits,
    Event.rsAfter, Event.dAfter, Config.tStrobeHold, Config.tByteSettle, Config.tPowerOn, nibbles_join]

/-- Transfers one after the other are read off their events, in order. -/
theorem monitor_transferEvents (xs : List (Bit × Byte)) (m : Monitor) (hf : m.stage = .free) (hs : m.settled = true) :
    ((transferEvents xs).foldl Monitor.next m).stage = .free ∧
    ((transferEvents xs).foldl Monitor.next m).settled = true ∧
    ((transferEvents xs).foldl Monitor.next m).transfers = m.transfers ++ xs := by
  induction xs generalizing m with
  | nil => simp [transferEvents, hf, hs]
  | cons x xs ih =>
    have hc : transferEvents (x :: xs) = byteEvents x.1 x.2 ++ transferEvents xs := rfl
    rw [hc, List.foldl_append, monitor_byteEvents m x.1 x.2 hf hs]
    obtain ⟨h1, h2, h3⟩ := ih (Monitor.mk .free true x.1 (loNibble x.2) (hiNibble x.2)
      (m.latches ++ [(x.1, hiNibble x.2), (x.1, loNibble x.2)]) (m.transfers ++ [(x.1, x.2)])) rfl rfl
    exact ⟨h1, h2, by rw [h3]; simp⟩

/-- The reset phase, on a free interface over which no byte was transferred, ends free and settled (R140, R252). -/
theorem monitor_resetEvents (m : Monitor) (n : Nibble) (hf : m.stage = .free) (ht : m.transfers = []) :
    ((resetEvents n).foldl Monitor.next m).stage = .free ∧
    ((resetEvents n).foldl Monitor.next m).settled = true ∧
    ((resetEvents n).foldl Monitor.next m).transfers = [] := by
  obtain ⟨st, se, r, d, hi, la, tr⟩ := m
  simp only at hf ht
  subst hf ht
  simp [resetEvents, pulseEvents, strobeEvents, Monitor.next, Monitor.nextStage, Stage.ensure, Event.waits,
    Event.rsAfter, Event.dAfter, Config.tStrobeHold, Config.tResetGap, Config.tPowerOn]

/-- An event that drives no line of the display. -/
def Event.quiet : Event → Bool
  | .rs _ => false
  | .d _ => false
  | .e _ => false
  | _ => true

/-- Events that drive no line of the display leave a free interface free, and make no transfer. -/
theorem monitor_quiet (evs : List Event) (m : Monitor) (h : evs.all Event.quiet = true) (hf : m.stage = .free) :
    (evs.foldl Monitor.next m).stage = .free ∧ (evs.foldl Monitor.next m).transfers = m.transfers ∧
    (m.settled = true → (evs.foldl Monitor.next m).settled = true) := by
  induction evs generalizing m with
  | nil => simp [hf]
  | cons ev evs ih =>
    simp only [List.all_cons, Bool.and_eq_true] at h
    have hn : (m.next ev).stage = .free ∧ (m.next ev).transfers = m.transfers ∧
        (m.settled = true → (m.next ev).settled = true) := by
      obtain ⟨st, se, r, d, hi, la, tr⟩ := m
      simp only at hf
      subst hf
      cases ev <;> simp_all [Monitor.next, Monitor.nextStage, Event.quiet]
    obtain ⟨h1, h2, h3⟩ := ih (m.next ev) h.2 hn.1
    exact ⟨h1, h2.trans hn.2.1, fun hs => h3 (hn.2.2 hs)⟩

end Sys2Proof.Machine
end

