-- ==== Sys2Proof/Laws/PerInstr.lean ====
section
/-! SUPPORT. Statements for all instructions, one lemma a constructor. Family `Words`: the words of a well-formed
instruction fit into the program store, one for each operation it stands for (spec 20 R61, 30 R97, R103). -/

namespace Sys2Proof.Laws.Words

/-- The words of the instruction fit into the store, and are as many as the operations it expands to. -/
def Statement (i : Instr) : Prop :=
  i.wellFormed = true → (encode i).length ≤ storeWords ∧ (encode i).length = (expand i).length

/-- One word fits. -/
theorem one_word : 1 ≤ storeWords := Nat.le_of_ble_eq_true rfl

/-- No word fits. -/
theorem no_word : 0 ≤ storeWords := Nat.zero_le _

theorem init : Statement .init := fun _ => ⟨one_word, rfl⟩
theorem clear : Statement .clear := fun _ => ⟨one_word, rfl⟩
theorem goto (a : DispAddr) : Statement (.goto a) := fun _ => ⟨one_word, rfl⟩
theorem wcmd (b : Byte) : Statement (.wcmd b) := fun _ => ⟨one_word, rfl⟩
theorem wdat (b : Byte) : Statement (.wdat b) := fun _ => ⟨one_word, rfl⟩
theorem clr2 : Statement .clr2 := fun _ => ⟨one_word, rfl⟩
theorem sample : Statement .sample := fun _ => ⟨one_word, rfl⟩
theorem format : Statement .format := fun _ => ⟨one_word, rfl⟩
theorem render : Statement .render := fun _ => ⟨one_word, rfl⟩
theorem live (v : Bit) : Statement (.live v) := fun _ => ⟨one_word, rfl⟩
theorem wait : Statement .wait := fun _ => ⟨one_word, rfl⟩
theorem jmp (t : StoreAddr) : Statement (.jmp t) := fun _ => ⟨one_word, rfl⟩
theorem puts (text : List Byte) : Statement (.puts text) := by
  simp [Statement, encode, expand, Instr.wellFormed]
theorem liveoff : Statement .liveoff := fun _ => ⟨one_word, rfl⟩
theorem liveon : Statement .liveon := fun _ => ⟨one_word, rfl⟩
theorem goto2 : Statement .goto2 := fun _ => ⟨one_word, rfl⟩
theorem loop : Statement .loop := fun _ => ⟨one_word, rfl⟩
theorem reserved0 (imm : Byte) : Statement (.reserved0 imm) := fun _ => ⟨one_word, rfl⟩
theorem reservedD (imm : Byte) : Statement (.reservedD imm) := fun _ => ⟨one_word, rfl⟩
theorem reservedE (imm : Byte) : Statement (.reservedE imm) := fun _ => ⟨one_word, rfl⟩
theorem reservedF (imm : Byte) : Statement (.reservedF imm) := fun _ => ⟨one_word, rfl⟩
theorem lcdClearHome : Statement .lcdClearHome := fun _ => ⟨no_word, rfl⟩
theorem lcdMode4Init : Statement .lcdMode4Init := fun _ => ⟨no_word, rfl⟩
theorem lcdEntryInc : Statement .lcdEntryInc := fun _ => ⟨no_word, rfl⟩
theorem lcdDisplayOff : Statement .lcdDisplayOff := fun _ => ⟨no_word, rfl⟩
theorem lcdDisplayOn : Statement .lcdDisplayOn := fun _ => ⟨no_word, rfl⟩
theorem lcdFunc4Bit2Line : Statement .lcdFunc4Bit2Line := fun _ => ⟨no_word, rfl⟩
theorem lcdSetAddr (addr : DispAddr) : Statement (.lcdSetAddr addr) := fun _ => ⟨no_word, rfl⟩
theorem lcdData (c : Byte) : Statement (.lcdData c) := fun _ => ⟨no_word, rfl⟩
theorem nib (n : Nibble) : Statement (.nib n) := fun _ => ⟨no_word, rfl⟩
theorem wbyte (rs : Bit) (b : Byte) : Statement (.wbyte rs b) := fun _ => ⟨no_word, rfl⟩
theorem strobe : Statement .strobe := fun _ => ⟨no_word, rfl⟩

end Sys2Proof.Laws.Words
end

