-- ==== Sys2Proof/Laws/Step.lean ====
section
/-! SUPPORT. What any instruction, and any step, can have done when it answers a next state: one case analysis for the
proofs about the whole machine. -/

namespace Sys2Proof.Machine

/-- Everything an instruction `i` that answers a next state can have done to `s`, by kind of instruction. -/
inductive Did (i : Instr) (s t : State) : Prop
  /-- Byte transfers and nothing else but the delay of `CLEAR` (R120 to R124, R141 to R144, R183). -/
  | sender (hi : Sender i) (xs : List (Bit × Byte))
      (hs : Sends s t xs (transferEvents xs ++ if i = .clear then [.delay Config.tClear] else []))
  /-- `INIT` (R140, R81). -/
  | init (hi : i = .init) (hd : s.drv = .uninitialized)
      (ht : t = { s with
        rs := 0#1, d := 0x6#4, e := 1#1, drv := .ready, pc := s.pc + 1#4
        disp := (s.disp.takeAll s.cfg.nCols (modeCommands.map fun b => (0#1, b))).start
        trace := s.trace ++ (resetEvents s.cfg.resetNibble ++ transferEvents (modeCommands.map fun b => (0#1, b))) })
  /-- The first step of `SAMPLE` (R161, R162). -/
  | sampleStart (hi : i = .sample) (hp : s.phase = .idle) (c : Conv)
      (ht : t = { s with
        adcCh := s.cfg.adcChannel, adcRef := .supply, phase := .polling, conv := c, env := s.env + 1
        trace := s.trace ++ (configEvents s.cfg ++ [.adcStart]) })
      (hc : c = .busy ∨ ∃ v, c = .done v ∧ v < 2 ^ s.cfg.adcBits)
  /-- The poll of `SAMPLE` that reads 1 (R164). -/
  | capture (hi : i = .sample) (hp : s.phase = .polling) (v : Nat) (hv : s.conv = .done v)
      (ht : t = { s with
        raw := some (topByte s.cfg.adcBits v), phase := .idle, pc := s.pc + 1#4
        trace := s.trace ++ [.adcPoll 1#1, .adcRead v] })
  /-- A poll of `SAMPLE` that reads 0 (R163). -/
  | poll (hi : i = .sample) (hp : s.phase = .polling) (c : Conv)
      (ht : t = { s with conv := c, env := s.env + 1, trace := s.trace ++ [.adcPoll 0#1] })
      (hc : c = s.conv ∨ ∃ v, c = .done v ∧ v < 2 ^ s.cfg.adcBits)
  /-- `FORMAT` (R175). -/
  | format (hi : i = .format) (raw : BitVec 8) (hr : s.raw = some raw)
      (ht : t = { s with
        scaled := some (scale raw s.cfg.refMv), ones := some (onesOf (scale raw s.cfg.refMv))
        decm := some (decmOf (scale raw s.cfg.refMv)), pc := s.pc + 1#4 })
  /-- `LIVE` and its other names (R197). -/
  | live (hi : i = .liveoff ∨ i = .liveon ∨ ∃ v, i = .live v) (v : Bit)
      (ht : t = { s with live := v, trace := s.trace ++ [.live v], pc := s.pc + 1#4 })
  /-- `WAIT` (R198). -/
  | wait (hi : i = .wait) (ht : t = { s with trace := s.trace ++ [.delay Config.tRefresh], pc := s.pc + 1#4 })
  /-- `JMP` and its other name (R199). -/
  | jump (hi : i = .loop ∨ ∃ a, i = .jmp a) (p : StoreAddr) (ht : t = { s with pc := p })
  /-- An instruction of the display controller (R82 to R86). -/
  | controller (hi : ControllerInstr i) (rs : Bit) (b : Byte)
      (ht : t = s.withDisplay (s.disp.take s.cfg.nCols rs b))
  /-- A strobe pulse or a nibble transfer alone (R120, R121). -/
  | micro (hi : i = .strobe ∨ ∃ n, i = .nib n) (n : Nibble) (evs : List Event)
      (ht : t = { s with d := n, e := 1#1, trace := s.trace ++ evs })

/-- Every next state of every instruction is one of these. -/
theorem exec_did {i : Instr} {s t : State} (h : exec i s = .next t) : Did i s t := by
  have sent : Sender i → Did i s t := fun hi => let ⟨xs, hx⟩ := sender_next hi h; .sender hi xs hx
  have taken : ControllerInstr i → Did i s t := fun hi => let ⟨_, _, hx⟩ := controller_next hi h; .controller hi _ _ hx
  cases i with
  | init => obtain ⟨a, b⟩ := init_next h; exact .init rfl a b
  | clear => exact sent .clear
  | goto a => exact sent (.goto a)
  | wcmd b => exact sent (.wcmd b)
  | wdat b => exact sent (.wdat b)
  | clr2 => exact sent .clr2
  | render => exact sent .render
  | puts text => exact sent (.puts text)
  | goto2 => exact sent .goto2
  | wbyte rs b => exact sent (.wbyte rs b)
  | sample =>
    rcases sample_next h with ⟨hp, c, ht, hc⟩ | ⟨hp, v, hv, _, ht⟩ | ⟨hp, _, c, ht, hc⟩
    · exact .sampleStart rfl hp c ht hc
    · exact .capture rfl hp v hv ht
    · exact .poll rfl hp c ht hc
  | format => obtain ⟨r, a, b⟩ := format_next h; exact .format rfl r a b
  | live v => exact .live (.inr (.inr ⟨v, rfl⟩)) v (live_next h)
  | liveoff => exact .live (.inl rfl) _ (live_next h)
  | liveon => exact .live (.inr (.inl rfl)) _ (live_next h)
  | wait => exact .wait rfl (wait_next h)
  | jmp a => exact .jump (.inr ⟨a, rfl⟩) a (by simp [exec, execJmp, jumpTo] at h; exact h.symm)
  | loop => exact .jump (.inl rfl) 1#4 (by simp [exec, execLoop, jumpTo] at h; exact h.symm)
  | reserved0 imm => simp [exec, execReserved0, illegalWord] at h
  | reservedD imm => simp [exec, execReservedD, illegalWord] at h
  | reservedE imm => simp [exec, execReservedE, illegalWord] at h
  | reservedF imm => simp [exec, execReservedF, illegalWord] at h
  | lcdClearHome => exact taken .clearHome
  | lcdMode4Init => exact taken .mode4Init
  | lcdEntryInc => exact taken .entryInc
  | lcdDisplayOff => exact taken .displayOff
  | lcdDisplayOn => exact taken .displayOn
  | lcdFunc4Bit2Line => exact taken .func
  | lcdSetAddr a => exact taken (.setAddr a)
  | lcdData c => exact taken (.data c)
  | nib n => exact .micro (.inr ⟨n, rfl⟩) n (nibbleEvents n) (by simp [exec, execNib, nibble] at h; exact h.symm)
  | strobe => exact .micro (.inl rfl) s.d strobeEvents (by simp [exec, execStrobe, strobe] at h; exact h.symm)

/-- A step that answers a next state ran the operation its word decodes to (R195). -/
theorem step_next {s t : State} (h : step s = .next t) :
    ∃ i, decodeOp (fetchWord s) = .ok i ∧ exec i s = .next t := by
  unfold step at h
  split at h
  · exact ⟨_, by assumption, h⟩
  · simp at h

/-- The instruction found in a table was built by one of its rows. -/
theorem findRow_some {w : OpWord} {i : Instr} (rows : List OpRow) (h : findRow w rows = some i) :
    ∃ r ∈ rows, i = r.build w := by
  induction rows with
  | nil => simp [findRow] at h
  | cons r rows ih =>
    unfold findRow at h
    split at h
    · simp only [Option.some.injEq] at h; exact ⟨r, by simp, h.symm⟩
    · obtain ⟨q, hq, e⟩ := ih h; exact ⟨q, by simp [hq], e⟩

/-- An operation word never decodes to a frame or to a micro-operation (R97). -/
theorem decodeOp_operation {w : OpWord} {i : Instr} (h : decodeOp w = .ok i) :
    ¬ ControllerInstr i ∧ i ≠ .strobe ∧ (∀ n, i ≠ .nib n) ∧ (∀ rs b, i ≠ .wbyte rs b) := by
  unfold decodeOp at h
  split at h
  · rename_i j hj
    simp only [Except.ok.injEq] at h
    subst h
    obtain ⟨r, hr, rfl⟩ := findRow_some _ hj
    simp only [opTable, List.mem_cons, List.not_mem_nil, or_false] at hr
    rcases hr with rfl | rfl | rfl | rfl | rfl | rfl | rfl | rfl | rfl | rfl | rfl | rfl | rfl | rfl | rfl | rfl <;>
      exact ⟨fun h => (by cases h), by simp, by simp, by simp⟩
  · simp at h

/-- A display operation that answers a next state found the driver ready (R127). -/
theorem sender_ready {i : Instr} {s t : State} (hi : Sender i) (hw : ∀ rs b, i ≠ .wbyte rs b)
    (h : exec i s = .next t) : s.drv = .ready := by
  cases hi <;> first | exact (ifReady_next h).1 | exact absurd rfl (hw _ _)

/-- No list of transfers starts or stops the observer. -/
theorem Display.takeAll_active (nCols : Nat) (xs : List (Bit × Byte)) (d : Display) :
    (d.takeAll nCols xs).active = d.active := by
  induction xs generalizing d with
  | nil => rfl
  | cons x xs ih => exact (ih _).trans (Display.take_active _ _ _ _)

/-- No list of transfers clears the poison (R86). -/
theorem Display.takeAll_poison {nCols : Nat} (xs : List (Bit × Byte)) {d : Display} (h : d.poison = true) :
    (d.takeAll nCols xs).poison = true := by
  induction xs generalizing d with
  | nil => exact h
  | cons x xs ih => exact ih (Display.take_poison h)

/-- Every list of transfers keeps the display memory canonical. -/
theorem Display.takeAll_wf {nCols : Nat} (xs : List (Bit × Byte)) {d : Display} (h : Memory.wf d.cells = true) :
    Memory.wf (d.takeAll nCols xs).cells = true := by
  induction xs generalizing d with
  | nil => exact h
  | cons x xs ih => exact ih (Display.take_wf h)

/-- An inactive observer ignores every list of transfers (R81). -/
theorem Display.takeAll_inactive {nCols : Nat} (xs : List (Bit × Byte)) {d : Display} (h : d.active = false) :
    d.takeAll nCols xs = d := by
  induction xs with
  | nil => rfl
  | cons x xs ih => rw [Display.takeAll_cons, Display.take_inactive h, ih]

/-- Data bytes from position `i` of line 2 on, as long as they stay on it, are stored one after the other (R84). -/
theorem Display.takeAll_line2 {nCols : Nat} (hn : nCols ≤ 40) (text : List Byte) (d : Display) (i : Nat)
    (ha : d.active = true) (hp : d.poison = false) (hc : d.cur = some (BitVec.ofNat 7 (40 + i)))
    (hl : i + text.length ≤ nCols) :
    (d.takeAll nCols (text.map fun c => (1#1, c))).active = true ∧
    (d.takeAll nCols (text.map fun c => (1#1, c))).poison = false ∧
    (d.takeAll nCols (text.map fun c => (1#1, c))).on = d.on ∧
    (d.takeAll nCols (text.map fun c => (1#1, c))).cur = some (BitVec.ofNat 7 (40 + i + text.length)) ∧
    ∀ a, (d.takeAll nCols (text.map fun c => (1#1, c))).cell a =
      if 40 + i ≤ a ∧ a < 40 + i + text.length then text[a - (40 + i)]? else d.cell a := by
  induction text generalizing d i with
  | nil => exact ⟨ha, hp, rfl, hc, fun a => by rw [if_neg (by simp)]; rfl⟩
  | cons c text ih =>
    simp only [List.length_cons] at hl
    have hv : (BitVec.ofNat 7 (40 + i)).toNat = 40 + i := by simp; omega
    have ht : d.target nCols = some (BitVec.ofNat 7 (40 + i)) := by
      unfold Display.target; rw [hc]; simp only [visible, hv, Config.line2Addr]
      rw [if_pos]; simp; omega
    have hcur : cursorAfter (BitVec.ofNat 7 (40 + i)) = some (BitVec.ofNat 7 (40 + (i + 1))) := by
      unfold cursorAfter; rw [hv, if_pos (by omega)]; congr 1
      apply BitVec.eq_of_toNat_eq; simp; omega
    have h1 : d.take nCols 1#1 c =
        { d with cells := Memory.write (40 + i) c d.cells, cur := some (BitVec.ofNat 7 (40 + (i + 1))) } := by
      have hd := Display.take_data (nCols := nCols) (b := c) ha
      simp only [Config.rsData] at hd
      rw [hd, Display.putData_visible c ht, hv, hcur]
    have hcell : ∀ a, (d.take nCols 1#1 c).cell a = if a = 40 + i then some c else d.cell a := by
      intro a; rw [h1]; simp [Display.cell, Memory.read_write]
    simp only [List.map_cons, Display.takeAll_cons]
    obtain ⟨g1, g2, g3, g4, g5⟩ :=
      ih (d.take nCols 1#1 c) (i + 1) (by simpa using ha) (by rw [h1]; exact hp) (by rw [h1]) (by omega)
    refine ⟨g1, g2, by rw [g3, h1], ?_, fun a => ?_⟩
    · rw [g4]; congr 2; simp; omega
    · rw [g5, hcell]
      simp only [List.length_cons]
      by_cases h : a = 40 + i
      · subst h; simp
      · by_cases h' : 40 + (i + 1) ≤ a ∧ a < 40 + (i + 1) + text.length
        · rw [if_pos h', if_pos (by omega), show a - (40 + i) = a - (40 + (i + 1)) + 1 by omega]; simp
        · rw [if_neg h', if_neg h, if_neg (by omega)]

end Sys2Proof.Machine
end

