-- ==== Sys2Proof/Tests/Slice0.lean ====
section
/-! SUPPORT. Tests: expected values from the vectors V<n> of spec/95 or worked out by hand from a rule; and, for every
statement of Obligations.lean that has hypotheses, a witness that meets them. -/

namespace Sys2Proof.Tests

open Sys2Proof.Machine

/-- The "Ready state" of spec/95, with the trace and the observer's cells empty. -/
def ready : State :=
  { State.reset with
    drv := .ready, d := 0x6#4, pc := 1#4
    disp := { active := true, cur := none, cells := [], on := true, poison := false } }

/-- The ready state with the cursor at an address. -/
def readyAt (a : DispAddr) : State := { ready with disp := { ready.disp with cur := some a } }

/-- The ready state with a formatted value. -/
def formatted (a : DispAddr) : State := { readyAt a with ones := some 2#4, decm := some 500#10 }

/-- A `SAMPLE` under way at `pc = 3` of the hardwired program. -/
def polling (c : Conv) : State := { ready with pc := 3#4, phase := .polling, conv := c }

/-- The next state of a result. -/
def after : Result → Option State
  | .next t => some t
  | .fault _ => none
  | .refused _ => none

/-- The refusal of a result. -/
def stop : Result → Option Refusal
  | .next _ => none
  | .fault _ => none
  | .refused r => some r

/-! ## Well-formedness -/

/-- R61: seventeen words do not fit into the store. -/
theorem test_wellFormed_refuses_seventeen :
    (Instr.puts (List.replicate 17 0x41#8)).wellFormed = false ∧
    (Instr.puts (List.replicate 16 0x41#8)).wellFormed = true := by decide

/-! ## Decoding (V14 to V29a, R91 to R95), words written out bit by bit -/

theorem test_decode_display :
    decodeOp 0b000100000000#12 = .ok .init ∧ decodeOp 0b000100000001#12 = .error .operandNotZero ∧
    decodeOp 0b001000000000#12 = .ok .clear ∧ decodeOp 0b001011111111#12 = .error .operandNotZero ∧
    decodeOp 0b001100000000#12 = .ok (.goto 0#7) ∧ decodeOp 0b001101111111#12 = .ok (.goto 127#7) ∧
    decodeOp 0b001110000000#12 = .error .gotoAddressTooWide ∧
    decodeOp 0b011000000000#12 = .ok .clr2 ∧ decodeOp 0b011000000001#12 = .error .operandNotZero := by decide

theorem test_decode_bytes :
    decodeOp 0b010000000000#12 = .ok (.wcmd 0#8) ∧ decodeOp 0b010011111111#12 = .ok (.wcmd 255#8) ∧
    decodeOp 0b010100000001#12 = .ok (.wdat 1#8) ∧ decodeOp 0b010101010110#12 = .ok (.wdat 0x56#8) := by decide

theorem test_decode_sampler_formatter :
    decodeOp 0b011100000000#12 = .ok .sample ∧ decodeOp 0b100000000000#12 = .ok .format ∧
    decodeOp 0b100100000000#12 = .ok .render ∧ decodeOp 0b011110000000#12 = .error .operandNotZero := by decide

theorem test_decode_loop :
    decodeOp 0b101000000000#12 = .ok (.live 0#1) ∧ decodeOp 0b101000000001#12 = .ok (.live 1#1) ∧
    decodeOp 0b101000000010#12 = .error .liveLevelTooWide ∧
    decodeOp 0b101100000000#12 = .ok .wait ∧ decodeOp 0b101100000001#12 = .error .operandNotZero ∧
    decodeOp 0b110000000000#12 = .ok (.jmp 0#4) ∧ decodeOp 0b110000001111#12 = .ok (.jmp 15#4) ∧
    decodeOp 0b110000010000#12 = .error .jumpTargetTooWide := by decide

theorem test_decode_reserved :
    decodeOp 0b000000000000#12 = .ok (.reserved0 0#8) ∧ decodeOp 0b110100000000#12 = .ok (.reservedD 0#8) ∧
    decodeOp 0b111000000000#12 = .ok (.reservedE 0#8) ∧ decodeOp 0b111111111111#12 = .ok (.reservedF 255#8) ∧
    isLegal 0x000#12 = false ∧ isLegal 0xD00#12 = false ∧ isLegal 0xE00#12 = false ∧ isLegal 0xFFF#12 = false := by
  decide

/-- R103: the words of the pseudo-operations. -/
theorem test_encode_pseudo :
    encode (.puts [0x48#8, 0x69#8]) = [0b010101001000#12, 0b010101101001#12] ∧
    encode .liveoff = [0b101000000000#12] ∧ encode .liveon = [0b101000000001#12] ∧
    encode .goto2 = [0b001100101000#12] ∧ encode .loop = [0b110000000001#12] := by decide

/-- R93 to R95: the frames. -/
theorem test_decode_frames :
    decodeFrame 0b000000001#9 = .ok .lcdClearHome ∧ decodeFrame 0b000000010#9 = .ok .lcdMode4Init ∧
    decodeFrame 0b000000110#9 = .ok .lcdEntryInc ∧ decodeFrame 0b000001000#9 = .ok .lcdDisplayOff ∧
    decodeFrame 0b000001100#9 = .ok .lcdDisplayOn ∧ decodeFrame 0b000101000#9 = .ok .lcdFunc4Bit2Line ∧
    decodeFrame 0b011111111#9 = .ok (.lcdSetAddr 127#7) ∧ decodeFrame 0b100000001#9 = .ok (.lcdData 0x01#8) ∧
    decodeFrame 0b001011010#9 = .error .undefinedCommand := by decide

/-- R91, R92: a latch word, and the frame of a byte transfer. -/
theorem test_latch_and_frame :
    decodeLatch 0b11010#5 = (1#1, .nib 0xA#4) ∧ encodeLatch 0#1 0x3#4 = 0b00011#5 ∧
    encodeFrame (.wbyte 1#1 0x56#8) = some 0b101010110#9 := by decide

theorem test_decodeTableWord :
    decodeTableWord 16 0x556 = some (.wdat 0x56#8) ∧ decodeTableWord 16 0x380 = none ∧
    decodeTableWord 9 0x0A8 = some (.lcdSetAddr 40#7) ∧ decodeTableWord 8 0x13 = some (.nib 3#4) := by decide

/-! ## Micro-operations and bytes (V1 to V11) -/

/-- V1. -/
theorem test_strobe :
    (after (exec .strobe ready)).map (fun t => (t.e, t.trace, t.pc)) =
      some (1#1, [.e 0#1, .delay 20000, .e 1#1], 1#4) := by decide

/-- V2. -/
theorem test_nib :
    (after (exec (.nib 5#4) ready)).map (fun t => (t.d, t.rs, t.trace)) =
      some (5#4, 0#1, [.d 5#4, .e 0#1, .delay 20000, .e 1#1]) := by decide

/-- The example of R122. -/
theorem test_wbyte :
    (after (exec (.wbyte 0#1 0x28#8) State.reset)).map (fun t => (t.d, t.trace, t.drv)) =
      some (8#4, [.rs 0#1, .d 2#4, .e 0#1, .delay 20000, .e 1#1, .d 8#4, .e 0#1, .delay 20000, .e 1#1, .delay 100],
        .uninitialized) := by decide

/-- V6: the high nibble first; an undefined command poisons the observer and nothing else. -/
theorem test_wcmd_undefined :
    (after (exec (.wcmd 0x5A#8) ready)).map (fun t => (t.trace, t.disp.poison, t.pc)) =
      some ([.rs 0#1, .d 5#4, .e 0#1, .delay 20000, .e 1#1, .d 10#4, .e 0#1, .delay 20000, .e 1#1, .delay 100],
        true, 2#4) := by decide

/-- V5: the last address is taken. -/
theorem test_wcmd_set_cursor :
    (after (exec (.wcmd 0xFF#8) ready)).map (fun t => (t.disp.cur, t.disp.poison)) = some (some 127#7, false) := by
  decide

/-- V11. -/
theorem test_wdat_point :
    (after (exec (.wdat 0x2E#8) ready)).map (fun t => (t.rs, t.trace)) =
      some (1#1, [.rs 1#1, .d 2#4, .e 0#1, .delay 20000, .e 1#1, .d 14#4, .e 0#1, .delay 20000, .e 1#1, .delay 100]) := by
  decide

/-- V43: the last visible cell of line 1, and the byte after it. -/
theorem test_wdat_edge_of_line_one :
    (after (exec (.wdat 0x41#8) (readyAt 15#7))).map (fun t => (t.disp.cell 15, t.disp.cur, t.disp.poison)) =
      some (some 0x41#8, some 16#7, false) ∧
    (after (exec (.wdat 0x42#8) (readyAt 16#7))).map (fun t => (t.disp.cell 16, t.disp.cur, t.disp.poison)) =
      some (none, some 16#7, true) := by decide

/-! ## Display operations (V12, V30 to V47) -/

/-- V30: 65 events, and what the ready state is. -/
theorem test_init :
    (after (exec .init State.reset)).map (fun t => (t.trace.length, t.drv, t.pc, t.disp)) =
      some (65, .ready, 1#4, ready.disp) ∧
    (after (exec .init State.reset)).map (fun t => (t.rs, t.d, t.e)) = some (0#1, 6#4, 1#1) := by decide

/-- V30: the latches and transfers of the complete trace. -/
theorem test_init_latches :
    (after (exec .init State.reset)).map (fun t => ((monitor t.trace).latches, (monitor t.trace).transfers)) =
      some ([(0#1, 3#4), (0#1, 3#4), (0#1, 3#4), (0#1, 0#4), (0#1, 2#4), (0#1, 2#4), (0#1, 8#4), (0#1, 0#4),
          (0#1, 8#4), (0#1, 0#4), (0#1, 12#4), (0#1, 0#4), (0#1, 6#4)],
        [(0#1, 0x02#8), (0#1, 0x28#8), (0#1, 0x08#8), (0#1, 0x0C#8), (0#1, 0x06#8)]) := by decide

/-- V32. -/
theorem test_clear :
    (after (exec .clear ready)).map (fun t => (t.trace.drop 9, t.disp.cur, t.disp.cell 0, t.disp.cell 127)) =
      some ([.delay 100, .delay 2000], some 0#7, some 0x20#8, some 0x20#8) := by decide

/-- V35. -/
theorem test_goto :
    (after (exec (.goto 40#7) ready)).map (fun t => (t.trace, t.disp.cur)) =
      some ([.rs 0#1, .d 10#4, .e 0#1, .delay 20000, .e 1#1, .d 8#4, .e 0#1, .delay 20000, .e 1#1, .delay 100],
        some 40#7) := by decide

/-- R103: `GOTO2` is `GOTO 40`. -/
theorem test_goto2 : after (exec .goto2 ready) = after (exec (.goto 40#7) ready) := by decide

/-- V37: `PUTS "Hi"`. -/
theorem test_puts :
    (after (exec (.puts [0x48#8, 0x69#8]) (readyAt 0#7))).map
        (fun t => (t.trace.length, t.pc, (t.trace.drop 10).take 2, t.disp.cell 1)) =
      some (20, 3#4, [.rs 1#1, .d 6#4], some 0x69#8) := by decide

/-- V39. -/
theorem test_clr2 :
    (after (exec .clr2 (readyAt 3#7))).map (fun t => (t.trace.length, t.rs, t.d, t.disp.cur)) =
      some (180, 0#1, 8#4, some 40#7) ∧
    (after (exec .clr2 (readyAt 3#7))).map (fun t => [39, 40, 55, 56].map t.disp.cell) =
      some [none, some 0x20#8, some 0x20#8, none] := by decide +kernel

/-- V40: forty columns. -/
theorem test_clr2_forty :
    (after (exec .clr2 { ready with cfg := { ready.cfg with nCols := 40 } })).map
        (fun t => (t.trace.length, t.disp.cell 79, t.disp.cell 80, t.disp.poison)) =
      some (420, some 0x20#8, none, false) := by decide +kernel

/-! ## Sampler (V50 to V55) -/

/-- V55: with `T_ACQ = 20` the wait stands between the configuration and the start. -/
theorem test_sample_start :
    (after (sampleStart none { State.reset with cfg := { Config.defaults with tAcq := 20 } })).map
        (fun t => (t.trace, t.conv, t.pc)) =
      some ([.adcCfg 0 .supply, .delay 20, .adcStart], .busy, 0#4) := by decide

/-- V50: a poll that reads 0, then the conversion completes. -/
theorem test_sample_poll :
    (after (samplePoll (some 0x201) (polling .busy))).map (fun t => (t.trace, t.conv, t.raw, t.pc)) =
      some ([.adcPoll 0#1], .done 0x201, none, 3#4) := by decide

/-- V50: the capture. -/
theorem test_sample_capture :
    (after (exec .sample (polling (.done 0x201)))).map (fun t => (t.trace, t.raw, t.pc, t.phase)) =
      some ([.adcPoll 1#1, .adcRead 513], some 128#8, 4#4, .idle) := by decide

/-- V52, V53: the top eight bits for several widths. -/
theorem test_topByte :
    topByte 10 0x003 = 0#8 ∧ topByte 10 0x004 = 1#8 ∧ topByte 10 0x1FF = 127#8 ∧ topByte 10 0x3FF = 255#8 ∧
    topByte 8 0x80 = 128#8 ∧ topByte 12 0x80F = 128#8 ∧ topByte 16 0x1234 = 18#8 := by decide

/-! ## Formatter (V61 to V87) -/

/-- V69: full scale. -/
theorem test_format :
    (after (exec .format { ready with raw := some 255#8 })).map (fun t => (t.scaled, t.ones, t.decm, t.trace)) =
      some (some 4980#16, some 4#4, some 980#10, []) := by decide

/-- V62, V64, V67, V70, V71, V72, V74, V76: scaled value, digit, fraction. -/
theorem test_scale :
    scale 1#8 5000#16 = 19#16 ∧ scale 52#8 5000#16 = 1015#16 ∧ scale 154#8 5000#16 = 3007#16 ∧
    scale 103#8 5000#16 = 2011#16 ∧ scale 249#8 10240#16 = 9960#16 ∧ scale 250#8 10240#16 = 10000#16 ∧
    scale 255#8 65535#16 = 65279#16 ∧ scale 1#8 255#16 = 0#16 ∧
    (onesOf 10000#16, decmOf 10000#16) = (0#4, 0#10) ∧ (onesOf 65279#16, decmOf 65279#16) = (5#4, 279#10) := by decide

/-- V80. -/
theorem test_render :
    (after (exec .render { readyAt 40#7 with ones := some 4#4, decm := some 980#10 })).map
        (fun t => (t.trace.length, t.rs, t.d, t.disp.cur)) = some (70, 1#1, 6#4, some 47#7) ∧
    (after (exec .render { readyAt 40#7 with ones := some 4#4, decm := some 980#10 })).map (fun t => t.disp.cells) =
      some [(40, 0x34#8), (41, 0x2E#8), (42, 0x39#8), (43, 0x38#8), (44, 0x30#8), (45, 0x20#8), (46, 0x56#8)] := by
  decide

/-- V81 to V83, V85. -/
theorem test_text7 :
    text7 0#4 7#10 = [0x30#8, 0x2E#8, 0x30#8, 0x30#8, 0x37#8, 0x20#8, 0x56#8] ∧
    text7 0#4 50#10 = [0x30#8, 0x2E#8, 0x30#8, 0x35#8, 0x30#8, 0x20#8, 0x56#8] ∧
    text7 9#4 999#10 = [0x39#8, 0x2E#8, 0x39#8, 0x39#8, 0x39#8, 0x20#8, 0x56#8] ∧
    text7 1#4 10#10 = [0x31#8, 0x2E#8, 0x30#8, 0x31#8, 0x30#8, 0x20#8, 0x56#8] := by decide

/-! ## Sequencer (V90 to V102) -/

/-- V90, V91. -/
theorem test_live :
    (after (exec (.live 1#1) State.reset)).map (fun t => (t.live, t.trace, t.pc)) = some (1#1, [.live 1#1], 1#4) ∧
    (after (exec (.live 0#1) State.reset)).map (fun t => (t.live, t.trace)) = some (0#1, [.live 0#1]) := by decide

/-- R103. -/
theorem test_liveoff_liveon :
    after (exec .liveoff ready) = after (exec (.live 0#1) ready) ∧
    after (exec .liveon ready) = after (exec (.live 1#1) ready) := by decide

/-- V92. -/
theorem test_wait :
    (after (exec .wait ready)).map (fun t => (t.trace, t.pc)) = some ([.delay 1000000], 2#4) := by decide

/-- V93, V94. -/
theorem test_jmp :
    (after (exec (.jmp 1#4) { ready with pc := 8#4 })).map (fun t => (t.pc, t.trace)) = some (1#4, []) ∧
    (after (exec (.jmp 15#4) { ready with pc := 15#4 })).map State.pc = some 15#4 ∧
    (after (exec .loop { ready with pc := 8#4 })).map State.pc = some 1#4 := by decide

/-- V95: the operation at `pc = 15` has emitted its event when it is refused. -/
theorem test_pc_past_end :
    stop (exec (.live 1#1) { ready with pc := 15#4 }) =
      some (.pcPastEndOfProgramStore { ready with pc := 15#4, live := 1#1, trace := [.live 1#1] }) := by decide

/-- V96, V98, V31, V100, V12: the reasons. -/
theorem test_refusals :
    stop (exec .format ready) = some .readOfUnwrittenRegister ∧
    stop (exec .render ready) = some .readOfUnwrittenRegister ∧
    stop (exec .render State.reset) = some .displayOperationBeforeInit ∧
    stop (exec .init ready) = some .secondInit ∧
    stop (step (ready.withFetchWord 16 0x000)) = some .illegalOperationWord ∧
    stop (step (ready.withFetchWord 16 0x101)) = some .illegalOperationWord ∧
    stop (exec (.reservedD 7#8) ready) = some .illegalOperationWord := by decide

/-! ## The display controller (V32, V42, V46) -/

/-- V46. -/
theorem test_lcd_modes :
    (after (exec .lcdMode4Init ready)).map (fun t => t.disp.poison) = some true ∧
    (after (exec .lcdDisplayOff ready)).map (fun t => (t.disp.on, t.disp.poison)) = some (false, false) ∧
    (after (exec .lcdDisplayOn { ready with disp := { ready.disp with on := false } })).map (fun t => t.disp.on) =
      some true ∧
    after (exec .lcdEntryInc ready) = some ready ∧ after (exec .lcdFunc4Bit2Line ready) = some ready := by decide

/-- R82, R83, R84: the engine's own state is untouched. -/
theorem test_lcd_data :
    after (exec (.lcdSetAddr 40#7) ready) = some (readyAt 40#7) ∧
    (after (exec (.lcdData 0x56#8) (readyAt 40#7))).map (fun t => (t.disp.cells, t.disp.cur, t.trace)) =
      some ([(40, 0x56#8)], some 41#7, []) ∧
    (after (exec (.lcdData 0x56#8) ready)).map (fun t => (t.disp.cells, t.disp.poison)) = some ([], true) ∧
    (after (exec .lcdClearHome ready)).map (fun t => (t.disp.cells.length, t.disp.cur)) = some (128, some 0#7) := by
  decide +kernel

/-! ## One step of the machine -/

/-- R246: the first step after reset runs `INIT`. -/
theorem test_step_from_reset : after (step State.reset) = after (exec .init State.reset) := by decide

/-- The word placed at `pc` is the one that runs. -/
theorem test_withFetchWord :
    after (step (State.reset.withFetchWord 16 0xA01)) =
      after (exec (.live 1#1) (State.reset.withFetchWord 16 0xA01)) := by decide

/-! ## Witnesses: states and operands that meet the hypotheses of each statement -/

/-- The ready state at the last address from which an operation can advance. -/
def last : State := { formatted 40#7 with pc := 14#4 }

theorem witness_StepRunsTheDecodedInstruction :
    decodeOp (State.reset.rom[State.reset.pc.toNat]'State.reset.pc.isLt) = .ok .init ∧
    isLegal ((State.reset.withFetchWord 16 0x2FF).rom[(0#4 : StoreAddr).toNat]'(0#4 : StoreAddr).isLt) = false := by
  decide

theorem witness_DecodeAgreesWithEncode :
    (Instr.puts (List.replicate 16 0xFF#8)).wellFormed = true ∧ (Instr.puts []).wellFormed = true ∧
    (Instr.goto 127#7).wellFormed = true := by decide

theorem witness_EncodeAgreesWithDecode :
    decodeOp 0x37F#12 = .ok (.goto 127#7) ∧ decodeOp 0xFFF#12 = .ok (.reservedF 255#8) := by decide

/-- One illegal word of each kind of R99, and legal neighbours. -/
theorem witness_IllegalWordsAreThoseOfTheRule :
    isLegal 0x0FF#12 = false ∧ isLegal 0xD00#12 = false ∧ isLegal 0x1FF#12 = false ∧ isLegal 0xB01#12 = false ∧
    isLegal 0x380#12 = false ∧ isLegal 0xA02#12 = false ∧ isLegal 0xC10#12 = false ∧
    isLegal 0x100#12 = true ∧ isLegal 0x37F#12 = true ∧ isLegal 0xA01#12 = true ∧ isLegal 0xC0F#12 = true := by decide

theorem witness_OneRowTakesAWord :
    (OpRow.mk 0x300#12 0xF80#12 fun w => .goto (addrField w)).takes 0x37F#12 = true := by decide

theorem witness_FramesAreDisplayInstructions :
    decodeFrame 0x0FF#9 = .ok (.lcdSetAddr 127#7) ∧ decodeFrame (1#1 ++ 0xFF#8) = .ok (.lcdData 0xFF#8) ∧
    decodeFrame (0#1 ++ 0x7F#8) = .error .undefinedCommand ∧ ready.disp.active = true := by decide

theorem witness_WcmdSendsOneCommandByte : last.drv = .ready ∧ last.pc ≠ 15#4 := by decide

theorem witness_WdatSendsOneDataByte : last.drv = .ready ∧ last.pc ≠ 15#4 := by decide

theorem witness_ClearSendsClearHomeAndWaits : last.drv = .ready ∧ last.pc ≠ 15#4 := by decide

theorem witness_GotoSendsTheSetCursorByte : last.drv = .ready ∧ last.pc ≠ 15#4 := by decide

theorem witness_Clr2SendsBlanksBetweenTwoGotos : last.drv = .ready ∧ last.pc ≠ 15#4 := by decide

theorem witness_InitRunsTheResetSequence :
    State.reset.drv = .uninitialized ∧ State.reset.ObserverOk ∧ State.reset.pc ≠ 15#4 :=
  ⟨rfl, by simp [State.ObserverOk, State.reset, Display.reset], by decide⟩

theorem witness_Clr2BlanksLineTwoOnly :
    last.drv = .ready ∧ last.pc ≠ 15#4 ∧ last.disp.active = true ∧ last.disp.poison = false ∧ last.cfg.wf = true ∧
    (40 ≤ 55 ∧ 55 < 40 + last.cfg.nCols) ∧ ¬ (40 ≤ 56 ∧ 56 < 40 + last.cfg.nCols) := by decide

theorem witness_Clr2IsIdempotentOnTheDisplay :
    ready.drv = .ready ∧ ({ ready with pc := 13#4 } : State).pc.toNat < 14 ∧ ready.disp.active = true ∧
    ready.disp.poison = false ∧ ready.cfg.wf = true ∧ ready.MemoryOk :=
  ⟨rfl, by decide, rfl, rfl, by decide, rfl⟩

theorem witness_PutsSendsEachCharacterInOrder :
    ready.drv = .ready ∧ ({ ready with pc := 14#4 } : State).pc.toNat + [0x56#8].length < 16 ∧
    ({ ready with pc := 15#4 } : State).pc.toNat + ([] : List Byte).length < 16 ∧
    [0x48#8, 0x69#8].getLast? = some 0x69#8 := by decide

theorem witness_PutsPastTheTopStopsAfterItsEvents :
    ready.drv = .ready ∧ 16 ≤ ({ ready with pc := 15#4 } : State).pc.toNat + [0x56#8].length ∧ [0x56#8] ≠ [] := by
  decide

theorem witness_ContractViolationsAreRefused :
    State.reset.drv = .uninitialized ∧ Instr.render ∈ [Instr.clear, .clr2, .render, .goto2] ∧ ready.drv = .ready ∧
    ready.raw = none ∧ ready.ones = none ∧ ({ ready with ones := some 9#4 } : State).decm = none := by decide

theorem witness_SampleConfiguresAndStarts : State.reset.phase = .idle ∧ ready.phase = .idle := by decide

theorem witness_PollOfZeroKeepsWaiting : (polling .busy).phase = .polling ∧ (polling .busy).conv = .busy := by decide

/-- Both ends of the value, and the narrowest converter. -/
theorem witness_SampleCapturesTheTopByte :
    (polling (.done 1023)).phase = .polling ∧ (polling (.done 1023)).conv = .done 1023 ∧
    (polling (.done 1023)).pc ≠ 15#4 ∧ 8 ≤ (polling (.done 1023)).cfg.adcBits ∧
    1023 < 2 ^ (polling (.done 1023)).cfg.adcBits ∧ (255 : Nat) < 2 ^ 8 := by decide

theorem witness_SampleEndsOnlyOnACompletedConversion :
    (∃ t, exec .sample (polling (.done 0)) = .next t ∧ t.phase = .idle) ∧
    (∃ t, exec .sample (polling .idle) = .next t ∧ t.phase = .polling) :=
  ⟨⟨_, rfl, rfl⟩, ⟨_, rfl, rfl⟩⟩

theorem witness_FormatScalesAndSplits :
    ({ ready with raw := some 255#8, pc := 14#4 } : State).raw = some 255#8 ∧
    ({ ready with raw := some 255#8, pc := 14#4 } : State).pc ≠ 15#4 := by decide

theorem witness_FormatAgreesWithItsProperty :
    (∃ t, exec .format { ready with raw := some 255#8 } = .next t) ∧ ready.cfg.refMv = 5000#16 :=
  ⟨⟨_, rfl⟩, rfl⟩

theorem witness_RenderSendsSevenCharacters :
    last.drv = .ready ∧ last.ones = some 2#4 ∧ last.decm = some 500#10 ∧ last.pc ≠ 15#4 := by
  decide

theorem witness_FractionIsZeroPaddedToThreeDigits :
    (9#4 : BitVec 4).toNat ≤ 9 ∧ (999#10 : BitVec 10).toNat ≤ 999 ∧ (0#10 : BitVec 10).toNat ≤ 999 := by decide

theorem witness_Clr2ThenRenderShowsTheVoltage :
    (formatted 47#7).drv = .ready ∧ ({ formatted 47#7 with pc := 13#4 } : State).pc.toNat < 14 ∧
    (formatted 47#7).disp.active = true ∧ (formatted 47#7).disp.poison = false ∧ (formatted 47#7).disp.on = true ∧
    (formatted 47#7).cfg.wf = true ∧ (formatted 47#7).ones = some 2#4 ∧ (formatted 47#7).decm = some 500#10 := by decide

theorem witness_LiveSetsADefiniteLevel : last.pc ≠ 15#4 ∧ State.reset.pc ≠ 15#4 := by decide

theorem witness_WaitBlocksForTheRefreshTime : last.pc ≠ 15#4 ∧ State.reset.pc ≠ 15#4 := by decide

theorem witness_CompletionAtFifteenIsRefusedAfterItsEffect :
    (∀ a, Instr.liveoff ≠ .jmp a) ∧ Instr.liveoff ≠ .loop ∧ State.reset.pc = 0#4 ∧
    (∃ t, exec .liveoff State.reset = .next t ∧ t.pc = 1#4) ∧
    (∃ t, exec .goto2 { ready with pc := 0#4 } = .next t ∧ t.pc = 1#4) ∧
    (∃ t, exec .sample { polling (.done 513) with pc := 0#4 } = .next t ∧ t.pc = 1#4) :=
  ⟨by simp, by simp, rfl, ⟨_, rfl, rfl⟩, ⟨_, rfl, rfl⟩, ⟨_, rfl, rfl⟩⟩

theorem witness_ClearHomeBlanksEveryCell : ready.disp.active = true ∧ 127 < 128 := by decide

theorem witness_SetAddrMovesTheCursor :
    (0x80#8 : Byte).msb = true ∧ (0xFF#8 : Byte).msb = true ∧ ready.disp.active = true := by decide

/-- The visible addresses on both sides of each edge, and the unknown cursor. -/
theorem witness_DataByteIsStoredAtAVisibleCursor :
    ready.disp.active = true ∧ (readyAt 15#7).disp.cur = some 15#7 ∧
    [0#7, 15#7, 16#7, 39#7, 40#7, 55#7, 56#7, 127#7].map (visible ready.cfg.nCols) =
      [true, true, false, false, true, true, false, false] ∧
    (15#7 : DispAddr).toNat < ready.cfg.nCols ∧ ready.disp.cur = none := by decide

theorem witness_ModeCommandsAfterInit : ready.disp.active = true := by decide

theorem witness_InactiveObserverIgnoresEverything :
    State.reset.disp.active = false ∧ Instr.lcdEntryInc ∈ [Instr.lcdClearHome, .lcdMode4Init, .lcdEntryInc,
      .lcdDisplayOff, .lcdDisplayOn, .lcdFunc4Bit2Line] := by decide

theorem witness_NonDisplayOperationsFrame :
    (∃ t, exec .sample ready = .next t) ∧ (∃ t, exec .format { ready with raw := some 1#8 } = .next t) ∧
    (∃ t, exec (.live 1#1) ready = .next t) ∧ (∃ t, exec .wait ready = .next t) ∧
    (∃ t, exec (.jmp 15#4) ready = .next t) :=
  ⟨⟨_, rfl⟩, ⟨_, rfl⟩, ⟨_, rfl⟩, ⟨_, rfl⟩, ⟨_, rfl⟩⟩

theorem witness_DisplayOperationsFrame :
    (∃ t, exec .init State.reset = .next t) ∧ (∃ t, exec .render last = .next t) ∧
    (∃ t, exec (.puts [0x41#8]) last = .next t) ∧ (∃ t, exec (.wbyte 1#1 0x41#8) State.reset = .next t) :=
  ⟨⟨_, rfl⟩, ⟨_, rfl⟩, ⟨_, rfl⟩, ⟨_, rfl⟩⟩

theorem witness_DisplayCellsFrame :
    (∃ t, exec (.wcmd 0x02#8) (readyAt 15#7) = .next t) ∧
    (∃ t, exec (.wdat 0x41#8) (readyAt 15#7) = .next t) ∧ (readyAt 15#7).disp.target 16 = some 15#7 ∧
    (readyAt 16#7).disp.target 16 = none ∧
    (∃ t, exec .clr2 (readyAt 15#7) = .next t) ∧ (readyAt 15#7).cfg.nCols ≤ 40 ∧
    (∃ t, exec .render (formatted 49#7) = .next t) ∧ (formatted 49#7).disp.cur = some 49#7 :=
  ⟨⟨_, rfl⟩, ⟨_, rfl⟩, by decide, by decide, ⟨_, rfl⟩, by decide, ⟨_, rfl⟩, rfl⟩

theorem witness_NoInstructionChangesParametersOrProgram : ∃ t, exec .init State.reset = .next t := ⟨_, rfl⟩

theorem witness_TraceOnlyGrowsAndIsNeverRead :
    (∃ t, exec .clear last = .next t) ∧
    (∃ u, exec .wait { last with pc := 15#4 } = .refused (.pcPastEndOfProgramStore u)) ∧
    exec .format last = .refused .readOfUnwrittenRegister := ⟨⟨_, rfl⟩, ⟨_, rfl⟩, rfl⟩

theorem witness_OnlyInitMakesTheDriverReady :
    ∃ t, exec .init State.reset = .next t ∧ State.reset.drv = .uninitialized ∧ t.drv = .ready := ⟨_, rfl, rfl, rfl⟩

/-- Each register does change in its writer. -/
theorem witness_EachRegisterHasItsWriter :
    (∃ t, exec .sample (polling (.done 513)) = .next t ∧ t.raw ≠ (polling (.done 513)).raw) ∧
    (∃ t, exec .format { ready with raw := some 1#8 } = .next t ∧ t.scaled ≠ ready.scaled) ∧
    (∃ t, exec (.live 1#1) ready = .next t ∧ t.live ≠ ready.live) :=
  ⟨⟨_, rfl, by decide⟩, ⟨_, rfl, by decide⟩, ⟨_, rfl, by decide⟩⟩

theorem witness_WrittenRegistersStayWritten :
    (∃ t, exec .wait last = .next t) ∧ last.ones.isSome ∧ last.decm.isSome ∧
    ({ last with raw := some 0#8, scaled := some 0#16 } : State).raw.isSome := ⟨⟨_, rfl⟩, rfl, rfl, rfl⟩

theorem witness_UndefinedCommandsPoisonAndPoisonStays :
    (∃ t, exec (.wbyte 0#1 0x7F#8) ready = .next t) ∧ (0x7F#8 : Byte).msb = false ∧
    0x7F#8 ∉ [0x01#8, 0x02#8, 0x06#8, 0x08#8, 0x0C#8, 0x28#8] ∧ ready.disp.active = true ∧
    (∃ t, exec .clear { ready with disp := { ready.disp with poison := true } } = .next t) ∧
    ({ ready with disp := { ready.disp with poison := true } } : State).disp.poison = true :=
  ⟨⟨_, rfl⟩, rfl, by decide, rfl, ⟨_, rfl⟩, rfl⟩

/-- The ready state about to run `CLR2`. -/
def readyAtClr2 : State := { ready with pc := 2#4, trace := [.delay 150000] }

theorem witness_DisplayIsDrivenByTheLinesAlone : readyAtClr2.drv = .ready ∧ ∃ t, step readyAtClr2 = .next t :=
  ⟨rfl, ⟨_, rfl⟩⟩

theorem witness_StepKeepsTheProtocol :
    (State.reset.Framed ∧ ∃ t, step State.reset = .next t) ∧ (readyAtClr2.Framed ∧ ∃ t, step readyAtClr2 = .next t) :=
  ⟨⟨⟨rfl, fun _ => rfl, fun h => (by cases h)⟩, ⟨_, rfl⟩⟩, ⟨⟨rfl, fun h => (by cases h), fun _ => rfl⟩, ⟨_, rfl⟩⟩⟩

theorem witness_StepKeepsSamplingInOrder :
    (polling (.done 1023)).SamplingOk ∧ (∃ t, step (polling (.done 1023)) = .next t) ∧
    (polling .busy).SamplingOk ∧ ∃ t, step (polling .busy) = .next t :=
  ⟨⟨fun _ => by decide, fun _ => by decide, fun v h => by cases h; decide⟩, ⟨_, rfl⟩,
    ⟨fun _ => by decide, fun _ => by decide, fun v h => by cases h⟩, ⟨_, rfl⟩⟩

/-- The hardwired program at its `FORMAT`, with every register written. -/
def atFormat : State := { last with pc := 5#4, raw := some 255#8, scaled := some 2500#16 }

theorem witness_StepKeepsTheDigits : atFormat.DigitsOk ∧ ∃ t, step atFormat = .next t :=
  ⟨⟨by decide, fun o h => by cases h; decide, fun m h => by cases h; decide⟩, ⟨_, rfl⟩⟩

theorem witness_StepKeepsObserverStrobeAndMemory :
    (∃ t, step readyAtClr2 = .next t) ∧ readyAtClr2.ObserverOk ∧ readyAtClr2.StrobeRests ∧ readyAtClr2.MemoryOk :=
  ⟨⟨_, rfl⟩, by simp [State.ObserverOk, readyAtClr2, ready], rfl, rfl⟩

end Sys2Proof.Tests
end

/-! Family `00_scope`: what reset leaves (O1) and what no instruction can touch (O47). -/

namespace Sys2Proof.Proofs.Scope

open Sys2Proof Sys2Proof.Machine

/-- Byte transfers touch neither the parameters nor the program store (R9, R61). -/
theorem sends_keeps_cfg_rom {s t : State} {xs : List (Bit × Byte)} {evs : List Event} (h : Sends s t xs evs) :
    t.cfg = s.cfg ∧ t.rom = s.rom := by
  obtain ⟨_, _, _, _, rfl, _⟩ := h
  exact ⟨rfl, rfl⟩

/-- No kind of effect writes the parameters or the program store: each names the fields it writes, and they are others. -/
theorem did_keeps_cfg_rom {i : Instr} {s t : State} (h : Did i s t) : t.cfg = s.cfg ∧ t.rom = s.rom := by
  cases h with
  | sender _ _ hs => exact sends_keeps_cfg_rom hs
  | init _ _ ht => subst ht; exact ⟨rfl, rfl⟩
  | sampleStart _ _ _ ht _ => subst ht; exact ⟨rfl, rfl⟩
  | capture _ _ _ _ ht => subst ht; exact ⟨rfl, rfl⟩
  | poll _ _ _ ht _ => subst ht; exact ⟨rfl, rfl⟩
  | format _ _ _ ht => subst ht; exact ⟨rfl, rfl⟩
  | live _ _ ht => subst ht; exact ⟨rfl, rfl⟩
  | wait _ ht => subst ht; exact ⟨rfl, rfl⟩
  | jump _ _ ht => subst ht; exact ⟨rfl, rfl⟩
  | controller _ _ _ ht => subst ht; exact ⟨withDisplay_cfg _ _, withDisplay_rom _ _⟩
  | micro _ _ _ ht => subst ht; exact ⟨rfl, rfl⟩

/-- Settles O47: every next state is one of the effects of `exec_did`, and none of them writes the two fields. -/
theorem noInstructionChangesParametersOrProgram : Obligations.NoInstructionChangesParametersOrProgram :=
  fun _ _ _ h => did_keeps_cfg_rom (exec_did h)

/-- The observer knows no character after reset: its memory lists no address (R44, R80). -/
theorem reset_cell (a : Nat) : State.reset.disp.cell a = none := Memory.read_nil a

/-- The program store holds the hardwired program after reset (R200). -/
theorem reset_rom : State.reset.rom = hardwired := rfl

/-- Settles O1: the registers, lines and observer flags in the order of the table of R44, then the cells, the program
store and the reference. -/
theorem resetLeavesTheSpecsValues : Obligations.ResetLeavesTheSpecsValues :=
  ⟨rfl, rfl, rfl, rfl, rfl, rfl, rfl, rfl, rfl, rfl, rfl, rfl, rfl, rfl, rfl, reset_cell, reset_rom, rfl⟩

end Sys2Proof.Proofs.Scope

/-! Family `10_state`: the trace is append-only and never read (O48). One law says both: an instruction commutes with
putting earlier events in front of the trace. -/

namespace Sys2Proof.Proofs.Trace

open Sys2Proof Sys2Proof.Machine

/-! ## Earlier events in front of the trace -/

/-- The state with earlier events in front of its trace. -/
def prependTrace (p : List Event) (s : State) : State := { s with trace := p ++ s.trace }

/-- A refusal with earlier events in front of the trace of the state it carries, where it carries one. -/
def prependRefusal (p : List Event) : Refusal → Refusal
  | .pcPastEndOfProgramStore last => .pcPastEndOfProgramStore (prependTrace p last)
  | r => r

/-- An outcome with earlier events in front of the trace of the state it leaves. -/
def prependResult (p : List Event) : Result → Result
  | .next t => .next (prependTrace p t)
  | .fault f => .fault f
  | .refused r => .refused (prependRefusal p r)

/-- Every trace is its own events in front of the empty trace. -/
theorem prependTrace_empty (p : List Event) (s : State) :
    prependTrace p { s with trace := [] } = { s with trace := p } := by
  simp [prependTrace]

/-- Only a next state becomes a next state. -/
theorem prependResult_next {p : List Event} {q : Result} {t : State} (h : prependResult p q = .next t) :
    ∃ u, q = .next u ∧ t = prependTrace p u := by
  cases q with
  | next u => cases h; exact ⟨u, rfl, rfl⟩
  | fault f => cases h
  | refused r => cases h

/-- Only a refusal becomes a refusal. -/
theorem prependResult_refused {p : List Event} {q : Result} {r : Refusal} (h : prependResult p q = .refused r) :
    ∃ r', q = .refused r' ∧ r = prependRefusal p r' := by
  cases q with
  | next u => cases h
  | fault f => cases h
  | refused r' => cases h; exact ⟨r', rfl, rfl⟩

/-- A refusal past the end of the store carries a state, with the earlier events; every other one is
unchanged (R217). -/
theorem prependRefusal_cases (p : List Event) (r : Refusal) :
    (∃ u, r = .pcPastEndOfProgramStore u ∧ prependRefusal p r = .pcPastEndOfProgramStore (prependTrace p u)) ∨
    ((∀ u, r ≠ .pcPastEndOfProgramStore u) ∧ ∀ q, prependRefusal q r = r) := by
  cases r with
  | pcPastEndOfProgramStore u => exact .inl ⟨u, rfl, rfl⟩
  | notModelled m => exact .inr ⟨by simp, fun _ => rfl⟩
  | illegalOperationWord => exact .inr ⟨by simp, fun _ => rfl⟩
  | displayOperationBeforeInit => exact .inr ⟨by simp, fun _ => rfl⟩
  | secondInit => exact .inr ⟨by simp, fun _ => rfl⟩
  | readOfUnwrittenRegister => exact .inr ⟨by simp, fun _ => rfl⟩

/-! ## State operations that only append -/

/-- The operation only appends to the trace and never reads it: earlier events stay in front and change nothing else. -/
def Appends (f : State → State) : Prop := ∀ p s, f (prependTrace p s) = prependTrace p (f s)

theorem Appends.comp {f g : State → State} (hf : Appends f) (hg : Appends g) : Appends fun s => f (g s) :=
  fun p s => by simp only [hg p s, hf p (g s)]

theorem appends_emit (evs : List Event) : Appends (emit evs) := fun p s => by simp [emit, prependTrace]

theorem appends_driveLive (v : Bit) : Appends (driveLive v) := fun p s => by simp [driveLive, prependTrace]

theorem appends_strobe : Appends strobe := fun p s => by simp [strobe, prependTrace]

theorem appends_nibble (n : Nibble) : Appends (nibble n) := fun p s => by simp [nibble, prependTrace]

theorem appends_writeByte (rs : Bit) (b : Byte) : Appends (writeByte rs b) := fun p s => by
  simp [writeByte, prependTrace]

theorem appends_sendBytes (rs : Bit) (bytes : List Byte) : Appends (sendBytes rs bytes) := fun p s => by
  simp [sendBytes_eq, prependTrace]

theorem appends_sendText (text : List Byte) : Appends (sendText text) := fun p s => by
  simp only [sendText_eq_sendBytes, appends_sendBytes _ _ p s]

theorem appends_sendCommands (bytes : List Byte) : Appends (sendCommands bytes) := fun p s => by
  simp only [sendCommands_eq_sendBytes, appends_sendBytes _ _ p s]

theorem appends_homeLine2 : Appends homeLine2 := appends_writeByte _ _

theorem appends_blankLine2 : Appends blankLine2 := fun p s =>
  (appends_homeLine2.comp ((appends_sendText (List.replicate s.cfg.nCols Config.blank)).comp appends_homeLine2)) p s

theorem appends_resetPhase : Appends resetPhase := fun p s => by simp [resetPhase, prependTrace]

theorem appends_observe (f : Display → Display) : Appends (observe f) := fun p s => by
  cases ha : s.disp.active <;> simp [observe, prependTrace, ha]

theorem appends_configureConverter : Appends configureConverter := fun p s => by simp [configureConverter, prependTrace]

theorem appends_startConversion : Appends startConversion := fun p s => by simp [startConversion, prependTrace]

theorem appends_converterMoves (choice : Option Nat) : Appends (converterMoves choice) := fun p s => by
  cases hc : s.conv <;> cases choice <;> simp [converterMoves, prependTrace, hc]

theorem appends_capture (v : Nat) : Appends (capture v) := fun p s => by simp [capture, prependTrace]

theorem appends_formatRegs (raw : BitVec 8) : Appends (formatRegs raw) := fun _ _ => rfl

/-! ## Meanings that only append -/

/-- The meaning only appends to the trace and never reads it, whatever it ends in. -/
def OpAppends (f : State → Result) : Prop := ∀ p s, f (prependTrace p s) = prependResult p (f s)

theorem Appends.next {f : State → State} (hf : Appends f) : OpAppends fun s => .next (f s) :=
  fun p s => congrArg Host.Outcome.next (hf p s)

theorem opAppends_refused (r : Refusal) (h : ∀ p, prependRefusal p r = r) : OpAppends fun _ => .refused r :=
  fun p _ => congrArg Host.Outcome.refused (h p).symm

/-- The advance of `pc` reads `pc` alone; the state it refuses with keeps its trace (R36, R217). -/
theorem opAppends_advance : OpAppends advance := fun p s => by
  by_cases h : s.pc = 15#4
  · rw [advance_top h, advance_top (s := prependTrace p s) h]; rfl
  · rw [advance_eq h, advance_eq (s := prependTrace p s) h]; rfl

theorem Appends.advance {f : State → State} (hf : Appends f) : OpAppends fun s => advance (f s) :=
  fun p s => by simp only [hf p s, opAppends_advance p (f s)]

theorem OpAppends.ifReady {f : State → Result} (hf : OpAppends f) :
    OpAppends fun s => ifReady s (f s) := fun p s => by
  have hd : (prependTrace p s).drv = s.drv := rfl
  simp only [Machine.ifReady, hd]
  cases s.drv with
  | ready => exact hf p s
  | uninitialized => rfl

theorem OpAppends.ifUninitialized {f : State → Result} (hf : OpAppends f) :
    OpAppends fun s => ifUninitialized s (f s) := fun p s => by
  have hd : (prependTrace p s).drv = s.drv := rfl
  simp only [Machine.ifUninitialized, hd]
  cases s.drv with
  | uninitialized => exact hf p s
  | ready => rfl

/-- Reading a register that is not the trace. -/
theorem OpAppends.withValue {α : Type} {reg : State → Option α} {k : α → State → Result}
    (hreg : ∀ p s, reg (prependTrace p s) = reg s) (hk : ∀ v, OpAppends (k v)) :
    OpAppends fun s => withValue (reg s) fun v => k v s := fun p s => by
  simp only [hreg]
  cases reg s with
  | some v => exact hk v p s
  | none => rfl

/-- One word `WDAT` after the other, each refused in its turn at the end of the store (R143, R36). -/
theorem opAppends_wdatEach (text : List Byte) : OpAppends (wdatEach text) := by
  induction text with
  | nil => exact fun _ _ => rfl
  | cons c text ih =>
    intro p s
    simp only [wdatEach, (appends_writeByte Config.rsData c).advance p s]
    cases advance (writeByte Config.rsData c s) with
    | next t => exact ih p t
    | fault f => rfl
    | refused r => rfl

theorem opAppends_execInit : OpAppends execInit := by
  have hsent : Appends fun s => sendCommands modeCommands (resetPhase s) :=
    (appends_sendCommands _).comp appends_resetPhase
  have hstart : Appends fun s => { s with drv := .ready, disp := s.disp.start } := fun _ _ => rfl
  exact (hstart.comp hsent).advance.ifUninitialized

/-- The first step of `SAMPLE` reads the phase and the converter's free choice alone (R161, R162). -/
theorem opAppends_sampleStart (choice : Option Nat) : OpAppends (sampleStart choice) :=
  ((appends_converterMoves choice).comp (appends_startConversion.comp appends_configureConverter)).next

/-- A poll reads the converter alone (R163, R164). -/
theorem opAppends_samplePoll (choice : Option Nat) : OpAppends (samplePoll choice) := fun p s => by
  have hc : (prependTrace p s).conv = s.conv := rfl
  have hpoll := appends_emit [.adcPoll (adcDone s)]
  have hwait := ((appends_converterMoves choice).comp hpoll).next p s
  unfold samplePoll
  rw [hc]
  cases s.conv with
  | done v => exact ((appends_capture v).comp hpoll).advance p s
  | busy => exact hwait
  | idle => exact hwait

theorem opAppends_execSample : OpAppends execSample := fun p s => by
  have hp : (prependTrace p s).phase = s.phase := rfl
  unfold execSample
  rw [hp]
  cases s.phase with
  | idle => exact opAppends_sampleStart _ p s
  | polling => exact opAppends_samplePoll _ p s

theorem opAppends_execFormat : OpAppends execFormat :=
  .withValue (fun _ _ => rfl) fun raw => (appends_formatRegs raw).advance

theorem opAppends_execRender : OpAppends execRender :=
  (OpAppends.withValue (fun _ _ => rfl) fun ones => .withValue (fun _ _ => rfl) fun decm =>
    (appends_sendText (text7 ones decm)).advance).ifReady

theorem opAppends_jumpTo (t : StoreAddr) : OpAppends fun s => .next (jumpTo t s) := fun _ _ => rfl

/-- R43 for every instruction: it commutes with earlier events in front of the trace. -/
theorem opAppends_exec (i : Instr) : OpAppends (exec i) := by
  have hillegal := opAppends_refused .illegalOperationWord fun _ => rfl
  cases i with
  | init => exact opAppends_execInit
  | clear => exact ((appends_emit _).comp (appends_writeByte _ _)).advance.ifReady
  | goto a => exact (appends_writeByte _ _).advance.ifReady
  | wcmd b => exact (appends_writeByte _ _).advance.ifReady
  | wdat b => exact (appends_writeByte _ _).advance.ifReady
  | clr2 => exact appends_blankLine2.advance.ifReady
  | sample => exact opAppends_execSample
  | format => exact opAppends_execFormat
  | render => exact opAppends_execRender
  | live v => exact (appends_driveLive v).advance
  | wait => exact (appends_emit _).advance
  | jmp t => exact opAppends_jumpTo t
  | puts text => exact (opAppends_wdatEach text).ifReady
  | liveoff => exact (appends_driveLive _).advance
  | liveon => exact (appends_driveLive _).advance
  | goto2 => exact appends_homeLine2.advance.ifReady
  | loop => exact opAppends_jumpTo _
  | reserved0 imm => exact hillegal
  | reservedD imm => exact hillegal
  | reservedE imm => exact hillegal
  | reservedF imm => exact hillegal
  | lcdClearHome => exact (appends_observe _).next
  | lcdMode4Init => exact (appends_observe _).next
  | lcdEntryInc => exact (appends_observe _).next
  | lcdDisplayOff => exact (appends_observe _).next
  | lcdDisplayOn => exact (appends_observe _).next
  | lcdFunc4Bit2Line => exact (appends_observe _).next
  | lcdSetAddr a => exact (appends_observe _).next
  | lcdData c => exact fun p s => (appends_observe (Display.putData s.cfg.nCols c)).next p s
  | nib n => exact (appends_nibble n).next
  | wbyte rs b => exact (appends_writeByte rs b).next
  | strobe => exact appends_strobe.next

/-! ## The statement -/

/-- An instruction on any trace is the instruction on the empty trace, with the old events in front. -/
theorem exec_with_trace (i : Instr) (s : State) (old : List Event) :
    exec i { s with trace := old } = prependResult old (exec i { s with trace := [] }) := by
  rw [← prependTrace_empty, opAppends_exec]

/-- Settles O48: the events appended are those emitted on the empty trace, and `exec_with_trace` puts any old trace in
front of them. -/
theorem traceOnlyGrowsAndIsNeverRead : Obligations.TraceOnlyGrowsAndIsNeverRead := by
  intro i s
  have hs : exec i s = prependResult s.trace (exec i { s with trace := [] }) := exec_with_trace i s s.trace
  refine ⟨fun t h => ?_, fun last h => ?_, fun r h hr old => ?_⟩
  · obtain ⟨u, hu, rfl⟩ := prependResult_next (hs.symm.trans h)
    exact ⟨u.trace, rfl, fun old => by rw [exec_with_trace, hu]; rfl⟩
  · obtain ⟨r', hr', hlast⟩ := prependResult_refused (hs.symm.trans h)
    obtain ⟨u, rfl, hu⟩ | ⟨hne, hsame⟩ := prependRefusal_cases s.trace r'
    · cases hlast.trans hu
      exact ⟨u.trace, rfl, fun old => by rw [exec_with_trace, hr']; rfl⟩
    · exact absurd (hlast.trans (hsame _)).symm (hne last)
  · obtain ⟨r', hr', rfl⟩ := prependResult_refused (hs.symm.trans h)
    obtain ⟨u, _, hu⟩ | ⟨_, hsame⟩ := prependRefusal_cases s.trace r'
    · exact absurd hu (hr _)
    · rw [exec_with_trace, hr', hsame]; simp only [prependResult, hsame]

end Sys2Proof.Proofs.Trace

/-! Family `20_memory`: the observer of the display controller. Command bytes that move the cursor (O40), switch the
display (O42) or have no defined meaning (O52), the pulses that reach no byte (O10, O11), and the poison that stays (O52). -/

namespace Sys2Proof.Proofs.Observer

open Sys2Proof Sys2Proof.Machine

/-! ## What an active observer does -/

/-- What reaches an active observer changes the display alone (R81). -/
theorem observe_of_active {s : State} (f : Display → Display) (h : s.disp.active = true) :
    observe f s = s.withDisplay (f s.disp) := by
  simp [observe, h, State.withDisplay]

/-- A command byte that is neither a set-cursor byte nor one of the six defined ones poisons the observer (R86). -/
theorem command_of_undefined {b : Byte} (d : Display) (hmsb : b.msb = false)
    (hb : b ∉ [0x01#8, 0x02#8, 0x06#8, 0x08#8, 0x0C#8, 0x28#8]) : d.command b = d.undefinedEffect := by
  simp only [List.mem_cons, List.not_mem_nil, or_false, not_or] at hb
  obtain ⟨h01, h02, h06, h08, h0C, h28⟩ := hb
  simp only [Display.command, hmsb, Bool.false_eq_true, if_false, h01, h02, h06, h08, h0C, h28]

/-! ## The frame of a byte -/

/-- The byte of a frame made of a level and a byte is that byte (R92). -/
theorem frameByte_append (rs : Bit) (b : Byte) : frameByte (rs ++ b) = b :=
  BitVec.extractLsb'_append_eq_right

/-- The level of a frame made of a level and a byte is that level (R92). -/
theorem frameRs_append (rs : Bit) (b : Byte) : frameRs (rs ++ b) = rs :=
  BitVec.extractLsb'_append_eq_left

/-- A command byte with its top bit set decodes to the set-cursor instruction of its low seven bits (R94). -/
theorem decodeFrame_of_msb {b : Byte} (h : b.msb = true) :
    decodeFrame (Config.rsCmd ++ b) = .ok (.lcdSetAddr (byteAddr b)) := by
  have hcmd : Config.rsCmd ≠ Config.rsData := by decide
  simp only [decodeFrame, frameRs_append, frameByte_append, hcmd, h, if_false, if_true]

/-! ## The poison stays -/

/-- No kind of effect clears the poison: the display either stays, or takes transfers, or is started by `INIT`, which
leaves the poison alone (R81, R86). -/
theorem did_keeps_poison {i : Instr} {s t : State} (h : Did i s t) (hp : s.disp.poison = true) :
    t.disp.poison = true := by
  cases h with
  | sender _ xs hs => obtain ⟨_, _, _, _, rfl, _⟩ := hs; exact Display.takeAll_poison xs hp
  | init _ _ ht => subst ht; exact Display.takeAll_poison _ hp
  | controller _ _ _ ht => subst ht; exact Display.take_poison hp
  | sampleStart _ _ _ ht _ => subst ht; exact hp
  | capture _ _ _ _ ht => subst ht; exact hp
  | poll _ _ _ ht _ => subst ht; exact hp
  | format _ _ _ ht => subst ht; exact hp
  | live _ _ ht => subst ht; exact hp
  | wait _ ht => subst ht; exact hp
  | jump _ _ ht => subst ht; exact hp
  | micro _ _ _ ht => subst ht; exact hp

/-! ## The statements -/

/-- Settles O52: the transfer of an undefined command byte is `command_of_undefined`, and every next state is one of the
effects of `exec_did`, none of which clears the poison. -/
theorem undefinedCommandsPoisonAndPoisonStays : Obligations.UndefinedCommandsPoisonAndPoisonStays := by
  refine ⟨fun b s t hmsb hb ha h => ?_, fun _ _ _ h => did_keeps_poison (exec_did h)⟩
  cases h
  exact (Display.take_command ha).trans (command_of_undefined s.disp hmsb hb)

/-- Settles O10: the hold of the pulse is `T_STROBE_HOLD`, 20 ms (R257). -/
theorem strobePulse : Obligations.StrobePulse := fun _ => rfl

/-- Settles O11: the events of a nibble are the load followed by those of one pulse. -/
theorem nibbleTransfer : Obligations.NibbleTransfer := fun _ _ => rfl

/-- Settles O40: the byte decodes by `decodeFrame_of_msb`, and the observer is active when the cursor is set. -/
theorem setAddrMovesTheCursor : Obligations.SetAddrMovesTheCursor := fun b _ hmsb ha =>
  ⟨decodeFrame_of_msb hmsb, congrArg Host.Outcome.next (observe_of_active (Display.setCursor (byteAddr b)) ha)⟩

/-- Settles O42: the five frames are decoded one by one; each instruction is its reaction of the active observer, and a
restating one leaves the display, hence the state, as it was. -/
theorem modeCommandsAfterInit : Obligations.ModeCommandsAfterInit := by
  refine ⟨rfl, rfl, rfl, rfl, rfl, fun s ha => ?_⟩
  have reacts (f : Display → Display) : (.next (observe f s) : Result) = .next (s.withDisplay (f s.disp)) :=
    congrArg Host.Outcome.next (observe_of_active f ha)
  exact ⟨reacts (Display.switch true), reacts (Display.switch false), reacts Display.restate,
    reacts Display.restate, reacts Display.undefinedEffect⟩

end Sys2Proof.Proofs.Observer

/-! Family `40_lcd_primitives`: the contract of the driver and of the data registers (O23). Each refusal is the answer of
one of the three guards of `Flags`. -/

namespace Sys2Proof.Proofs.Primitives

open Sys2Proof Sys2Proof.Machine

/-! ## What the guards refuse -/

/-- An `INIT` with the driver ready is a second one (R127). -/
theorem ifUninitialized_refused {s : State} {r : Result} (h : s.drv = .ready) :
    ifUninitialized s r = .refused .secondInit := by simp [ifUninitialized, h]

/-- A register never written refuses its read, whatever would be done with the value (R26). -/
theorem withValue_refused {α : Type} {reg : Option α} {k : α → Result} (h : reg = none) :
    withValue reg k = .refused .readOfUnwrittenRegister := by simp [withValue, h]

/-- Of two registers read one after the other, either one refuses when it was never written (R183). -/
theorem withValue_withValue_refused {α β : Type} {reg₁ : Option α} {reg₂ : Option β} {k : α → β → Result}
    (h : reg₁ = none ∨ reg₂ = none) :
    (withValue reg₁ fun v => withValue reg₂ (k v)) = .refused .readOfUnwrittenRegister := by
  cases reg₁ with
  | none => exact withValue_refused rfl
  | some v => exact withValue_refused (reg := reg₂) (h.resolve_left (Option.some_ne_none v))

/-! ## Which instructions the driver state guards -/

/-- The whole meaning of each display operation stands behind the test of the driver state, the empty `PUTS` included
(R127, R143). -/
theorem exec_displayOperation_eq_ifReady {i : Instr} (s : State)
    (hi : i ∈ [Instr.clear, .clr2, .render, .goto2] ∨ (∃ a, i = .goto a) ∨ (∃ b, i = .wcmd b ∨ i = .wdat b) ∨
      (∃ text, i = .puts text)) :
    ∃ r, exec i s = ifReady s r := by
  obtain hnamed | ⟨a, rfl⟩ | ⟨b, rfl | rfl⟩ | ⟨text, rfl⟩ := hi
  · simp only [List.mem_cons, List.not_mem_nil, or_false] at hnamed
    obtain rfl | rfl | rfl | rfl := hnamed <;> exact ⟨_, rfl⟩
  · exact ⟨_, rfl⟩
  · exact ⟨_, rfl⟩
  · exact ⟨_, rfl⟩
  · exact ⟨_, rfl⟩

/-! ## The statement -/

/-- Settles O23: the driver state is the outermost test of every display operation, so it answers first (R219); behind it
`RENDER` reads its two registers. -/
theorem contractViolationsAreRefused : Obligations.ContractViolationsAreRefused := by
  refine fun s => ⟨fun hdrv i hi => ?_, fun hdrv => ?_, fun hraw => ?_, fun hdrv hregs => ?_⟩
  · obtain ⟨r, hr⟩ := exec_displayOperation_eq_ifReady s hi
    exact hr.trans (ifReady_refused hdrv)
  · exact ifUninitialized_refused hdrv
  · exact withValue_refused hraw
  · exact (ifReady_eq hdrv).trans (withValue_withValue_refused hregs)

end Sys2Proof.Proofs.Primitives

/-! Family `41_lcd_operations`: the engine never learns anything from the display (O53), a second `CLR2` leaves the display
as the first left it (O20), and `INIT` alone makes the driver ready (O49). -/

namespace Sys2Proof.Proofs.Lcd

open Sys2Proof Sys2Proof.Machine

/-! ## State operations blind to the display -/

/-- The operation never reads the display: on another display it does the same to every other field. -/
def Blind (f : State → State) : Prop := ∀ s d, ∃ d', f (s.withDisplay d) = (f s).withDisplay d'

theorem Blind.comp {f g : State → State} (hf : Blind f) (hg : Blind g) : Blind fun s => f (g s) := fun s d => by
  obtain ⟨d₁, hd₁⟩ := hg s d
  obtain ⟨d₂, hd₂⟩ := hf (g s) d₁
  exact ⟨d₂, by simp only [hd₁, hd₂]⟩

theorem blind_emit (evs : List Event) : Blind (emit evs) := fun _ d => ⟨d, rfl⟩

theorem blind_driveLive (v : Bit) : Blind (driveLive v) := fun _ d => ⟨d, rfl⟩

theorem blind_strobe : Blind strobe := fun _ d => ⟨d, rfl⟩

theorem blind_nibble (n : Nibble) : Blind (nibble n) := fun _ d => ⟨d, rfl⟩

/-- A byte transfer sends the same events whether the display takes it or not (R146). -/
theorem blind_writeByte (rs : Bit) (b : Byte) : Blind (writeByte rs b) := fun s d => ⟨d.take s.cfg.nCols rs b, rfl⟩

theorem blind_sendBytes (rs : Bit) (bytes : List Byte) : Blind (sendBytes rs bytes) := by
  induction bytes with
  | nil => exact fun _ d => ⟨d, rfl⟩
  | cons b bytes ih => exact ih.comp (blind_writeByte rs b)

theorem blind_sendText (text : List Byte) : Blind (sendText text) :=
  funext (sendText_eq_sendBytes text) ▸ blind_sendBytes _ _

theorem blind_sendCommands (bytes : List Byte) : Blind (sendCommands bytes) :=
  funext (sendCommands_eq_sendBytes bytes) ▸ blind_sendBytes _ _

theorem blind_homeLine2 : Blind homeLine2 := blind_writeByte _ _

theorem blind_blankLine2 : Blind blankLine2 := fun s =>
  (blind_homeLine2.comp ((blind_sendText (List.replicate s.cfg.nCols Config.blank)).comp blind_homeLine2)) s

theorem blind_resetPhase : Blind resetPhase := fun _ d => ⟨d, rfl⟩

/-- The display's own reaction, or its silence while inactive, stays in the display (R81). -/
theorem blind_observe (f : Display → Display) : Blind (observe f) := fun s d => by
  refine ⟨if d.active then f d else d, ?_⟩
  unfold observe
  rw [withDisplay_disp]
  split <;> split <;> rfl

theorem blind_configureConverter : Blind configureConverter := fun _ d => ⟨d, rfl⟩

theorem blind_startConversion : Blind startConversion := fun _ d => ⟨d, rfl⟩

theorem blind_converterMoves (choice : Option Nat) : Blind (converterMoves choice) := fun s d => by
  refine ⟨d, ?_⟩
  unfold converterMoves
  rw [withDisplay_conv]
  split <;> rfl

theorem blind_capture (v : Nat) : Blind (capture v) := fun _ d => ⟨d, rfl⟩

theorem blind_formatRegs (raw : BitVec 8) : Blind (formatRegs raw) := fun _ d => ⟨d, rfl⟩

theorem blind_jumpTo (t : StoreAddr) : Blind (jumpTo t) := fun _ d => ⟨d, rfl⟩

/-! ## Meanings blind to the display -/

/-- The meaning never reads the display: on another display it ends the same once the display is left out. -/
def OpBlind (f : State → Result) : Prop := ∀ s d, forgetDisplay (f (s.withDisplay d)) = forgetDisplay (f s)

theorem opBlind_refused (r : Refusal) : OpBlind fun _ => .refused r := fun _ _ => rfl

theorem Blind.next {f : State → State} (hf : Blind f) : OpBlind fun s => .next (f s) := fun s d => by
  obtain ⟨d', hd'⟩ := hf s d
  simp only [hd']
  rfl

/-- The advance of `pc` reads `pc` alone, whether it answers or refuses (R36). -/
theorem opBlind_advance : OpBlind advance := fun s d => by
  by_cases h : s.pc = 15#4
  · rw [advance_top h, advance_top (s := s.withDisplay d) h]; rfl
  · rw [advance_eq h, advance_eq (s := s.withDisplay d) h]; rfl

theorem Blind.advance {f : State → State} (hf : Blind f) : OpBlind fun s => advance (f s) := fun s d => by
  obtain ⟨d', hd'⟩ := hf s d
  simp only [hd', opBlind_advance (f s) d']

theorem OpBlind.ifReady {f : State → Result} (hf : OpBlind f) : OpBlind fun s => ifReady s (f s) := fun s d => by
  simp only [Machine.ifReady, withDisplay_drv]
  cases s.drv with
  | ready => exact hf s d
  | uninitialized => rfl

theorem OpBlind.ifUninitialized {f : State → Result} (hf : OpBlind f) :
    OpBlind fun s => ifUninitialized s (f s) := fun s d => by
  simp only [Machine.ifUninitialized, withDisplay_drv]
  cases s.drv with
  | uninitialized => exact hf s d
  | ready => rfl

/-- Reading a register of the engine. -/
theorem OpBlind.withValue {α : Type} {reg : State → Option α} {k : α → State → Result}
    (hreg : ∀ s d, reg (s.withDisplay d) = reg s) (hk : ∀ v, OpBlind (k v)) :
    OpBlind fun s => withValue (reg s) fun v => k v s := fun s d => by
  simp only [hreg]
  cases reg s with
  | some v => exact hk v s d
  | none => rfl

/-- One word `WDAT` after the other: each either ends the text at the top of the store, or hands the next one a state that
differs in the display alone (R143, R36). -/
theorem opBlind_wdatEach (text : List Byte) : OpBlind (wdatEach text) := by
  induction text with
  | nil => exact fun _ _ => rfl
  | cons c text ih =>
    intro s d
    obtain ⟨d', hd'⟩ := blind_writeByte Config.rsData c s d
    simp only [wdatEach, hd']
    by_cases h : (writeByte Config.rsData c s).pc = 15#4
    · rw [advance_top h, advance_top (by simpa using h)]; rfl
    · rw [advance_eq h, advance_eq (by simpa using h)]; exact ih { writeByte Config.rsData c s with pc := (writeByte Config.rsData c s).pc + 1#4 } d'

theorem opBlind_execInit : OpBlind execInit := by
  have hsent : Blind fun s => sendCommands modeCommands (resetPhase s) :=
    (blind_sendCommands _).comp blind_resetPhase
  have hstart : Blind fun s => { s with drv := .ready, disp := s.disp.start } := fun _ d => ⟨d.start, rfl⟩
  exact (hstart.comp hsent).advance.ifUninitialized

/-- The first step of `SAMPLE` (R161, R162). -/
theorem opBlind_sampleStart (choice : Option Nat) : OpBlind (sampleStart choice) :=
  ((blind_converterMoves choice).comp (blind_startConversion.comp blind_configureConverter)).next

/-- A poll reads the converter alone (R163, R164). -/
theorem opBlind_samplePoll (choice : Option Nat) : OpBlind (samplePoll choice) := fun s d => by
  have hpoll := blind_emit [.adcPoll (adcDone s)]
  have hwait := ((blind_converterMoves choice).comp hpoll).next s d
  unfold samplePoll
  rw [withDisplay_conv]
  cases s.conv with
  | done v => exact ((blind_capture v).comp hpoll).advance s d
  | busy => exact hwait
  | idle => exact hwait

theorem opBlind_execSample : OpBlind execSample := fun s d => by
  unfold execSample
  rw [withDisplay_phase, withDisplay_env]
  cases s.phase with
  | idle => exact opBlind_sampleStart _ s d
  | polling => exact opBlind_samplePoll _ s d

theorem opBlind_execFormat : OpBlind execFormat :=
  .withValue (fun _ _ => rfl) fun raw => (blind_formatRegs raw).advance

theorem opBlind_execRender : OpBlind execRender :=
  (OpBlind.withValue (fun _ _ => rfl) fun ones => .withValue (fun _ _ => rfl) fun decm =>
    (blind_sendText (text7 ones decm)).advance).ifReady

/-- R146 for every instruction: none reads the display. -/
theorem opBlind_exec (i : Instr) : OpBlind (exec i) := by
  cases i with
  | init => exact opBlind_execInit
  | clear => exact ((blind_emit _).comp (blind_writeByte _ _)).advance.ifReady
  | goto a => exact (blind_writeByte _ _).advance.ifReady
  | wcmd b => exact (blind_writeByte _ _).advance.ifReady
  | wdat b => exact (blind_writeByte _ _).advance.ifReady
  | clr2 => exact blind_blankLine2.advance.ifReady
  | sample => exact opBlind_execSample
  | format => exact opBlind_execFormat
  | render => exact opBlind_execRender
  | live v => exact (blind_driveLive v).advance
  | wait => exact (blind_emit _).advance
  | jmp t => exact (blind_jumpTo t).next
  | puts text => exact (opBlind_wdatEach text).ifReady
  | liveoff => exact (blind_driveLive _).advance
  | liveon => exact (blind_driveLive _).advance
  | goto2 => exact blind_homeLine2.advance.ifReady
  | loop => exact (blind_jumpTo _).next
  | reserved0 imm => exact opBlind_refused _
  | reservedD imm => exact opBlind_refused _
  | reservedE imm => exact opBlind_refused _
  | reservedF imm => exact opBlind_refused _
  | lcdClearHome => exact (blind_observe _).next
  | lcdMode4Init => exact (blind_observe _).next
  | lcdEntryInc => exact (blind_observe _).next
  | lcdDisplayOff => exact (blind_observe _).next
  | lcdDisplayOn => exact (blind_observe _).next
  | lcdFunc4Bit2Line => exact (blind_observe _).next
  | lcdSetAddr a => exact (blind_observe _).next
  | lcdData c => exact fun s d => (blind_observe (Display.putData s.cfg.nCols c)).next s d
  | nib n => exact (blind_nibble n).next
  | wbyte rs b => exact (blind_writeByte rs b).next
  | strobe => exact blind_strobe.next

/-- Settles O53: the word fetched does not depend on the display, and neither does the instruction it decodes to. -/
theorem engineDoesNotDependOnTheDisplay : Obligations.EngineDoesNotDependOnTheDisplay := fun s d => by
  have hfetch : fetchWord (s.withDisplay d) = fetchWord s := rfl
  unfold step
  rw [hfetch]
  cases decodeOp (fetchWord s) with
  | ok i => exact opBlind_exec i s d
  | error e => rfl

/-! ## The driver state -/

/-- Settles O49: of the effects of `exec_did`, only that of `INIT` writes the driver state. -/
theorem onlyInitMakesTheDriverReady : Obligations.OnlyInitMakesTheDriverReady := fun i s t h => by
  cases exec_did h with
  | sender _ _ hs => obtain ⟨_, _, _, _, rfl, _⟩ := hs; exact .inl rfl
  | init hi hd ht => subst ht; exact .inr ⟨hi, hd, rfl⟩
  | sampleStart _ _ _ ht _ => subst ht; exact .inl rfl
  | capture _ _ _ _ ht => subst ht; exact .inl rfl
  | poll _ _ _ ht _ => subst ht; exact .inl rfl
  | format _ _ _ ht => subst ht; exact .inl rfl
  | live _ _ ht => subst ht; exact .inl rfl
  | wait _ ht => subst ht; exact .inl rfl
  | jump _ _ ht => subst ht; exact .inl rfl
  | controller _ _ _ ht => subst ht; exact .inl rfl
  | micro _ _ _ ht => subst ht; exact .inl rfl

/-! ## What CLR2 does -/

/-- The state `CLR2` leaves when it completes (R144). -/
def afterClr2 (s : State) : State :=
  { s with
    rs := 0#1, d := 0x8#4, e := 1#1, pc := s.pc + 1#4
    disp := s.disp.takeAll s.cfg.nCols (clr2Transfers s.cfg.nCols)
    trace := s.trace ++ transferEvents (clr2Transfers s.cfg.nCols) }

/-- `CLR2` completes in every ready state below the top of the store (R144, R36). -/
theorem exec_clr2 {s : State} (hdrv : s.drv = .ready) (hpc : s.pc ≠ 15#4) : exec .clr2 s = .next (afterClr2 s) := by
  have hblank : { blankLine2 s with pc := s.pc + 1#4 } = afterClr2 s := by
    simp only [blankLine2, homeLine2, setCursorByte_line2, sendText_eq_sendBytes, sendBytes_eq, byteEvents_map]
    simp [afterClr2, writeByte, clr2Transfers, transferEvents, Config.rsCmd, Config.rsData, Config.blank, loNibble]
  have hsame : (blankLine2 s).pc = s.pc := by simp [blankLine2, homeLine2, sendText_eq_sendBytes, sendBytes_eq]
  have hexec : exec .clr2 s = advance (blankLine2 s) := ifReady_eq hdrv
  rw [hexec, advance_eq (by rwa [hsame]), hsame, hblank]

/-- Every transfer is ten events (R122). -/
theorem length_transferEvents (xs : List (Bit × Byte)) : (transferEvents xs).length = 10 * xs.length := by
  induction xs with
  | nil => rfl
  | cons x xs ih =>
    have hten : (byteEvents x.1 x.2).length = 10 := rfl
    have hcons : transferEvents (x :: xs) = byteEvents x.1 x.2 ++ transferEvents xs := rfl
    rw [hcons, List.length_append, ih, hten, List.length_cons]; omega

theorem length_clr2Transfers (nCols : Nat) : (clr2Transfers nCols).length = nCols + 2 := by
  simp [clr2Transfers]

/-! ## What CLR2 leaves on the display -/

/-- The byte `0xA8` puts the cursor of an active observer at the start of line 2 (R83, R94). -/
theorem take_line2Address {d : Display} (nCols : Nat) (ha : d.active = true) :
    d.take nCols 0#1 0xA8#8 = d.setCursor 40#7 := Display.take_command ha

/-- `CLR2` on an active observer without poison blanks line 2, leaves the cursor at its start and changes nothing else
(R147). -/
theorem takeAll_clr2Transfers {d : Display} {nCols : Nat} (hn : nCols ≤ 40) (ha : d.active = true)
    (hp : d.poison = false) :
    ∃ cells, d.takeAll nCols (clr2Transfers nCols) = { d with cur := some 40#7, cells := cells } ∧
      ∀ a, Memory.read cells a = if 40 ≤ a ∧ a < 40 + nCols then some 0x20#8 else d.cell a := by
  obtain ⟨hact, hpoi, hon, -, hcells⟩ :=
    Display.takeAll_line2 hn (List.replicate nCols 0x20#8) (d.setCursor 40#7) 0 ha hp rfl (by simp)
  simp only [List.map_replicate, List.length_replicate, Nat.add_zero] at hact hpoi hon hcells
  have htake : d.takeAll nCols (clr2Transfers nCols) =
      ((d.setCursor 40#7).takeAll nCols (List.replicate nCols (1#1, 0x20#8))).setCursor 40#7 := by
    rw [clr2Transfers, Display.takeAll_cons, take_line2Address nCols ha, Display.takeAll_append, Display.takeAll_cons,
      Display.takeAll_nil, take_line2Address nCols hact]
  refine ⟨_, htake.trans ?_, fun a => (hcells a).trans ?_⟩
  · rw [Display.setCursor, hact, hpoi, hon, ha, hp]; rfl
  · split
    · rw [List.getElem?_replicate, if_pos (by omega)]
    · rfl

/-- A second run of the transfers of `CLR2` writes the same codes to the same cells, so a canonical memory is the same
list (R147). -/
theorem takeAll_clr2Transfers_idem {d : Display} {nCols : Nat} (hn : nCols ≤ 40) (ha : d.active = true)
    (hp : d.poison = false) (hwf : Memory.wf d.cells = true) :
    (d.takeAll nCols (clr2Transfers nCols)).takeAll nCols (clr2Transfers nCols) =
      d.takeAll nCols (clr2Transfers nCols) := by
  have hwf₁ := Display.takeAll_wf (nCols := nCols) (clr2Transfers nCols) hwf
  have hwf₂ := Display.takeAll_wf (nCols := nCols) (clr2Transfers nCols) hwf₁
  obtain ⟨cells₁, heq₁, hread₁⟩ := takeAll_clr2Transfers hn ha hp
  rw [heq₁] at hwf₁ hwf₂ ⊢
  obtain ⟨cells₂, heq₂, hread₂⟩ :=
    takeAll_clr2Transfers (d := { d with cur := some 40#7, cells := cells₁ }) hn ha hp
  rw [heq₂] at hwf₂ ⊢
  have hcells : cells₂ = cells₁ := Memory.ext_of_wf hwf₂ hwf₁ fun a => by
    rw [hread₂, Display.cell, hread₁]; split <;> rfl
  rw [hcells]

/-- The parameters of R8 leave line 2 on visible addresses. -/
theorem nCols_le_of_wf {cfg : Config.Params} (h : cfg.wf = true) : cfg.nCols ≤ 40 := by
  simp only [Config.Params.wf, Bool.and_eq_true, decide_eq_true_eq] at h
  exact h.2

/-- Settles O20: both `CLR2` complete by `exec_clr2`; the displays agree by `takeAll_clr2Transfers_idem`. -/
theorem clr2IsIdempotentOnTheDisplay : Obligations.Clr2IsIdempotentOnTheDisplay := by
  intro s hdrv hpc ha hp hcfg hmem
  have hpc₁ : s.pc ≠ 15#4 := by bv_omega
  have hpc₂ : s.pc + 1#4 ≠ 15#4 := by bv_omega
  refine ⟨afterClr2 s, afterClr2 (afterClr2 s), exec_clr2 hdrv hpc₁, exec_clr2 hdrv hpc₂,
    takeAll_clr2Transfers_idem (nCols_le_of_wf hcfg) ha hp hmem, ?_⟩
  have hgrows (r : State) : (afterClr2 r).trace.length = r.trace.length + 10 * (r.cfg.nCols + 2) := by
    rw [afterClr2, List.length_append, length_transferEvents, length_clr2Transfers]
  exact hgrows (afterClr2 s)

end Sys2Proof.Proofs.Lcd

/-! Family `42_adc_sampler`: a `SAMPLE` under way stays in order (O56) and ends with a completed conversion alone (O27); its
three kinds of step (O24, O25, O26). -/

namespace Sys2Proof.Proofs.Sampler

open Sys2Proof Sys2Proof.Machine

/-! ## A converter that was started -/

/-- The converter was started: it is busy, or done with a value of `bits` bits (R166). -/
def Started (bits : Nat) (c : Conv) : Prop := c = .busy ∨ ∃ v, c = .done v ∧ v < 2 ^ bits

theorem Started.ne_idle {bits : Nat} {c : Conv} (h : Started bits c) : c ≠ .idle := by
  obtain rfl | ⟨v, rfl, _⟩ := h <;> simp

theorem Started.lt_of_done {bits v : Nat} {c : Conv} (h : Started bits c) (hc : c = .done v) : v < 2 ^ bits := by
  obtain rfl | ⟨w, rfl, hw⟩ := h
  · cases hc
  · cases hc; exact hw

/-- While a `SAMPLE` is under way in order, its converter was started. -/
theorem started_of_polling {s : State} (h : s.SamplingOk) (hp : s.phase = .polling) : Started s.cfg.adcBits s.conv := by
  cases hc : s.conv with
  | idle => exact absurd hc (h.started hp)
  | busy => exact .inl rfl
  | done v => exact .inr ⟨v, rfl, h.width v hc⟩

/-- Whatever its free choice, a busy converter stays busy or completes with a value of `ADC_BITS` bits, and only it and the
counter of the free values move (R166 b). -/
theorem converterMoves_of_busy (choice : Option Nat) {s : State} (h : s.conv = .busy) :
    ∃ c, converterMoves choice s = { s with conv := c, env := s.env + 1 } ∧ Started s.cfg.adcBits c := by
  cases choice with
  | none => exact ⟨.busy, by simp [converterMoves, h], .inl rfl⟩
  | some v =>
    exact ⟨.done (v % 2 ^ s.cfg.adcBits), by simp [converterMoves, h], .inr ⟨_, rfl, Nat.mod_lt _ (Nat.two_pow_pos _)⟩⟩

/-! ## The three kinds of step -/

theorem exec_sample_of_idle {s : State} (hp : s.phase = .idle) :
    exec .sample s =
      .next (converterMoves (Config.conversion s.env) (startConversion (configureConverter s))) := by
  simp only [exec, execSample, hp, sampleStart]

theorem exec_sample_of_busy {s : State} (hp : s.phase = .polling) (hc : s.conv = .busy) :
    exec .sample s = .next (converterMoves (Config.conversion s.env) (emit [.adcPoll 0#1] s)) := by
  simp only [exec, execSample, hp, samplePoll, adcDone, hc]

theorem exec_sample_of_done {s : State} {v : Nat} (hp : s.phase = .polling) (hc : s.conv = .done v) :
    exec .sample s = advance (capture v (emit [.adcPoll 1#1] s)) := by
  simp only [exec, execSample, hp, samplePoll, adcDone, hc]

/-- The top byte of a result of 8 bits or more is what is left without its low bits (R67). -/
theorem toNat_topByte {bits v : Nat} (hbits : 8 ≤ bits) (hv : v < 2 ^ bits) :
    (topByte bits v).toNat = v / 2 ^ (bits - 8) := by
  have hsplit : 2 ^ (bits - 8) * 2 ^ 8 = 2 ^ bits := by rw [← pow_add, Nat.sub_add_cancel hbits]
  have hlt : v / 2 ^ (bits - 8) < 2 ^ 8 := Nat.div_lt_of_lt_mul (hsplit ▸ hv)
  rw [topByte, BitVec.toNat_ofNat, Nat.shiftRight_eq_div_pow, Nat.mod_eq_of_lt hlt]

/-! ## The invariant -/

/-- No instruction but `SAMPLE` moves the converter or the phase. -/
theorem did_keeps_phase_conv {i : Instr} {s t : State} (h : Did i s t) (hi : i ≠ .sample) :
    t.phase = s.phase ∧ t.conv = s.conv := by
  cases h with
  | sender _ _ hs => obtain ⟨_, _, _, _, rfl, _⟩ := hs; exact ⟨rfl, rfl⟩
  | init _ _ ht => subst ht; exact ⟨rfl, rfl⟩
  | sampleStart hs => exact absurd hs hi
  | capture hs => exact absurd hs hi
  | poll hs => exact absurd hs hi
  | format _ _ _ ht => subst ht; exact ⟨rfl, rfl⟩
  | live _ _ ht => subst ht; exact ⟨rfl, rfl⟩
  | wait _ ht => subst ht; exact ⟨rfl, rfl⟩
  | jump _ _ ht => subst ht; exact ⟨rfl, rfl⟩
  | controller _ _ _ ht => subst ht; exact ⟨rfl, rfl⟩
  | micro _ _ _ ht => subst ht; exact ⟨rfl, rfl⟩

/-- A step of `SAMPLE` keeps it in order: a start and a poll of 0 stay at its word with a started converter, a capture ends
it (R163, R164). -/
theorem sample_keeps_samplingOk {s t : State} (hok : s.SamplingOk) (hword : decodeOp (fetchWord s) = .ok .sample)
    (h : exec .sample s = .next t) : t.SamplingOk := by
  obtain ⟨_, c, rfl, hc⟩ | ⟨_, v, hv, _, rfl⟩ | ⟨hp, _, c, rfl, hc⟩ := sample_next h
  · exact ⟨fun _ => hword, fun _ => Started.ne_idle hc, fun _ => Started.lt_of_done hc⟩
  · exact ⟨nofun, nofun, hok.width⟩
  · have hstarted : Started s.cfg.adcBits c := by
      obtain rfl | hdone := hc
      · exact started_of_polling hok hp
      · exact .inr hdone
    exact ⟨fun _ => hword, fun _ => hstarted.ne_idle, fun _ => hstarted.lt_of_done⟩

/-- Another instruction keeps it in order: it stands at another word, so no `SAMPLE` is under way, and none comes to be. -/
theorem other_keeps_samplingOk {i : Instr} {s t : State} (hok : s.SamplingOk) (hi : i ≠ .sample)
    (hword : decodeOp (fetchWord s) = .ok i) (h : exec i s = .next t) : t.SamplingOk := by
  obtain ⟨hphase, hconv⟩ := did_keeps_phase_conv (exec_did h) hi
  obtain ⟨hcfg, _⟩ := Scope.did_keeps_cfg_rom (exec_did h)
  have hidle : t.phase ≠ .polling := fun hp =>
    hi (Except.ok.inj (hword.symm.trans (hok.atSample (hphase ▸ hp))))
  refine ⟨fun hp => absurd hp hidle, fun hp => absurd hp hidle, ?_⟩
  rw [hconv, hcfg]
  exact hok.width

/-- Settles O56: the step ran the operation its word decodes to, which is `SAMPLE` or another one. -/
theorem stepKeepsSamplingInOrder : Obligations.StepKeepsSamplingInOrder := fun s t hok h => by
  obtain ⟨i, hword, hexec⟩ := step_next h
  by_cases hi : i = .sample
  · subst hi; exact sample_keeps_samplingOk hok hword hexec
  · exact other_keeps_samplingOk hok hi hword hexec

/-! ## The other statements -/

/-- Settles O27: of the effects of `sample_next` with a `SAMPLE` under way, the capture needs a completed conversion and the
poll of 0 excludes one. -/
theorem sampleEndsOnlyOnACompletedConversion : Obligations.SampleEndsOnlyOnACompletedConversion := fun s t hp h => by
  obtain ⟨hidle, _⟩ | ⟨_, v, hv, _, rfl⟩ | ⟨_, hndone, c, rfl, _⟩ := sample_next h
  · cases hp.symm.trans hidle
  · exact ⟨⟨fun _ => ⟨v, hv⟩, fun _ => rfl⟩, nofun⟩
  · refine ⟨⟨fun hidle => ?_, fun ⟨v, hv⟩ => absurd hv (hndone v)⟩, fun _ => ⟨rfl, rfl, rfl, rfl⟩⟩
    cases hp.symm.trans hidle

/-- Settles O24: the start leaves the converter busy, and `converterMoves_of_busy` says what it may do before the first
poll. -/
theorem sampleConfiguresAndStarts : Obligations.SampleConfiguresAndStarts := fun s hp => by
  obtain ⟨c, hmoves, hc⟩ := converterMoves_of_busy (Config.conversion s.env)
    (s := startConversion (configureConverter s)) rfl
  refine ⟨c, ?_, hc⟩
  rw [exec_sample_of_idle hp, hmoves]
  simp [startConversion, configureConverter, configEvents]

/-- Settles O25: after the poll the converter moves, by `converterMoves_of_busy`. -/
theorem pollOfZeroKeepsWaiting : Obligations.PollOfZeroKeepsWaiting := fun s hp hbusy => by
  obtain ⟨c, hmoves, hc⟩ := converterMoves_of_busy (Config.conversion s.env) (s := emit [.adcPoll 0#1] s) hbusy
  exact ⟨c, (exec_sample_of_busy hp hbusy).trans (congrArg Host.Outcome.next hmoves), hc⟩

/-- Settles O26: the captured byte is the quotient by `toNat_topByte`, and below the top of the store `pc` advances. -/
theorem sampleCapturesTheTopByte : Obligations.SampleCapturesTheTopByte := fun s v hp hdone hpc hbits hv => by
  refine ⟨topByte s.cfg.adcBits v, ?_, toNat_topByte hbits hv⟩
  rw [exec_sample_of_done hp hdone, advance_eq (by simpa using hpc)]
  simp [capture, emit]

end Sys2Proof.Proofs.Sampler

/-! Family `43_formatter`: what `FORMAT` computes (O28), and the property the spec quotes for it (O29). -/

namespace Sys2Proof.Proofs.Formatter

open Sys2Proof Sys2Proof.Machine

/-! ## The three values as numbers -/

/-- The product of 8 and 16 bits fits 24, and the quotient fits the 16 that are kept: nothing is lost (R176). -/
theorem toNat_scale (raw : BitVec 8) (refMv : BitVec 16) :
    (scale raw refMv).toNat = raw.toNat * refMv.toNat / 256 := by
  have hprod : raw.toNat * refMv.toNat < 2 ^ 24 :=
    Nat.mul_lt_mul'' (c := 2 ^ 8) (d := 2 ^ 16) raw.isLt refMv.isLt
  have hzext : (raw.zeroExtend 24 * refMv.zeroExtend 24).toNat = raw.toNat * refMv.toNat := by
    rw [BitVec.toNat_mul, BitVec.toNat_setWidth_of_le (by decide), BitVec.toNat_setWidth_of_le (by decide),
      Nat.mod_eq_of_lt hprod]
  rw [scale, BitVec.extractLsb'_toNat, hzext, Nat.shiftRight_eq_div_pow]
  omega

theorem toNat_onesOf (scaled : BitVec 16) : (onesOf scaled).toNat = scaled.toNat / 1000 % 10 := by
  rw [onesOf, BitVec.toNat_ofNat]
  omega

theorem toNat_decmOf (scaled : BitVec 16) : (decmOf scaled).toNat = scaled.toNat % 1000 := by
  rw [decmOf, BitVec.toNat_ofNat]
  omega

/-! ## Ranges and the value the digits give back -/

theorem onesOf_le (scaled : BitVec 16) : (onesOf scaled).toNat ≤ 9 := by
  rw [toNat_onesOf]
  omega

theorem decmOf_le (scaled : BitVec 16) : (decmOf scaled).toNat ≤ 999 := by
  rw [toNat_decmOf]
  omega

/-- With the reference 5000 the scaled value is at most 4980, so the ones digit is at most 4 (R179). -/
theorem onesOf_scale_5000_le (raw : BitVec 8) : (onesOf (scale raw 5000#16)).toNat ≤ 4 := by
  have hscaled : (scale raw 5000#16).toNat ≤ 4980 := by
    rw [toNat_scale, BitVec.toNat_ofNat]
    omega
  rw [toNat_onesOf]
  omega

/-- The digit and the fraction lose nothing but the thousands above the digit. -/
theorem onesOf_mul_add_decmOf (scaled : BitVec 16) :
    (onesOf scaled).toNat * 1000 + (decmOf scaled).toNat = scaled.toNat % 10000 := by
  rw [toNat_onesOf, toNat_decmOf]
  omega

/-! ## The operation -/

theorem exec_format_of_raw {s : State} {raw : BitVec 8} (hraw : s.raw = some raw) :
    exec .format s = advance (formatRegs raw s) := by
  simp only [exec, execFormat, withValue, hraw]

/-- Settles O29: a completed `FORMAT` is the effect of `format_next`; the value is `onesOf_mul_add_decmOf` of the exact
quotient. -/
theorem formatAgreesWithItsProperty : Obligations.FormatAgreesWithItsProperty := fun s t h href => by
  obtain ⟨raw, hraw, rfl⟩ := format_next h
  refine ⟨raw, _, _, hraw, rfl, rfl, onesOf_le _, decmOf_le _, ?_⟩
  rw [onesOf_mul_add_decmOf, toNat_scale, href, BitVec.toNat_ofNat]

/-- Settles O28: below the top of the store `pc` advances over `formatRegs`, whose values are the numbers above. -/
theorem formatScalesAndSplits : Obligations.FormatScalesAndSplits := fun s raw hraw hpc => by
  refine ⟨scale raw s.cfg.refMv, onesOf (scale raw s.cfg.refMv), decmOf (scale raw s.cfg.refMv), ?_,
    toNat_scale _ _, toNat_onesOf _, toNat_decmOf _, onesOf_le _, fun href => ?_⟩
  · rw [exec_format_of_raw hraw, advance_eq (by simpa using hpc)]
    rfl
  · rw [href]
    exact onesOf_scale_5000_le raw

end Sys2Proof.Proofs.Formatter

/-! Family `44_sequencer`: a step runs the word at `pc` (O3); the operations of the main loop (O33 to O36); and the end of
an iteration, where `CLR2` and `RENDER` show the voltage (O32). -/

namespace Sys2Proof.Proofs.Sequencer

open Sys2Proof Sys2Proof.Machine

/-! ## The step -/

/-- A step at a word that decodes runs its operation and nothing around it (R195). -/
theorem step_of_decoded {s : State} {i : Instr} (h : decodeOp (fetchWord s) = .ok i) : step s = exec i s := by
  rw [step, h]

/-- A step at a word that no row takes is refused (R195, R99). -/
theorem step_of_undecodable {s : State} {e : DecodeError} (h : decodeOp (fetchWord s) = .error e) :
    step s = .refused .illegalOperationWord := by
  rw [step, h]

/-- Each of the four reserved words is refused as illegal (R99). -/
theorem exec_of_reserved {i : Instr} (s : State) (h : i.isReserved = true) :
    exec i s = .refused .illegalOperationWord := by
  cases i with
  | reserved0 imm => rfl
  | reservedD imm => rfl
  | reservedE imm => rfl
  | reservedF imm => rfl
  | _ => exact absurd h Bool.false_ne_true

/-- An illegal word decodes to nothing or to a reserved operation (R99). -/
theorem decodeOp_of_illegal {w : OpWord} (h : isLegal w = false) :
    (∃ e, decodeOp w = .error e) ∨ ∃ i, decodeOp w = .ok i ∧ i.isReserved = true := by
  unfold isLegal at h
  cases hw : decodeOp w with
  | error e => exact .inl ⟨e, rfl⟩
  | ok i => exact .inr ⟨i, rfl, by simpa [hw] using h⟩

/-- Settles O3: the word at `pc` is the one fetched, and both ways of being illegal end in the same refusal. -/
theorem stepRunsTheDecodedInstruction : Obligations.StepRunsTheDecodedInstruction := by
  refine ⟨fun s i h => step_of_decoded h, fun s h => ?_⟩
  obtain ⟨e, he⟩ | ⟨i, hi, hreserved⟩ := decodeOp_of_illegal h
  · exact step_of_undecodable he
  · exact (step_of_decoded hi).trans (exec_of_reserved s hreserved)

/-! ## LIVE, WAIT, JMP and their other names -/

/-- Driving the liveness line and advancing: the meaning `LIVE` shares with its two other names (R197, R103). -/
theorem advance_driveLive (v : Bit) {s : State} (h : s.pc ≠ 15#4) :
    advance (driveLive v s) = .next { s with live := v, trace := s.trace ++ [.live v], pc := s.pc + 1#4 } :=
  advance_eq (s := driveLive v s) h

/-- Settles O33: the three operations are `advance_driveLive` at their level. -/
theorem liveSetsADefiniteLevel : Obligations.LiveSetsADefiniteLevel := fun _ h =>
  ⟨fun v => advance_driveLive v h, advance_driveLive Config.liveOff h, advance_driveLive Config.liveOn h⟩

/-- Settles O34: the delay leaves `pc` alone, so below the top of the store it advances. -/
theorem waitBlocksForTheRefreshTime : Obligations.WaitBlocksForTheRefreshTime := fun s h =>
  advance_eq (s := delay Config.tRefresh s) h

/-- The sixteen words of `JMP`, one for each address of the program store (R98, R199). -/
theorem decodeOp_jmp : ∀ t : StoreAddr, decodeOp (BitVec.ofNat 12 (0xC00 + t.toNat)) = .ok (.jmp t) := by decide

/-- A jump writes `pc` and nothing else, in every state (R199). -/
theorem exec_jmp (t : StoreAddr) (s : State) : exec (.jmp t) s = .next { s with pc := t } := rfl

/-- Settles O35: the jump is `exec_jmp`, its words are those of `decodeOp_jmp`. -/
theorem jmpSetsThePc : Obligations.JmpSetsThePc := ⟨exec_jmp, decodeOp_jmp⟩

/-- Settles O36: `LOOP` is the jump to the address 1. -/
theorem loopJumpsToOne : Obligations.LoopJumpsToOne := exec_jmp 1#4

/-! ## The end of an iteration -/

/-- Sending text leaves `pc` to the operation that sends it (R143). -/
theorem sendText_pc (text : List Byte) (s : State) : (sendText text s).pc = s.pc := by
  rw [sendText_eq_sendBytes, sendBytes_eq]

/-- Sent text reaches the display as data bytes in order (R143). -/
theorem sendText_disp (text : List Byte) (s : State) :
    (sendText text s).disp = s.disp.takeAll s.cfg.nCols (text.map fun c => (1#1, c)) := by
  rw [sendText_eq_sendBytes, sendBytes_eq, Config.rsData]

/-- With its two registers written, `RENDER` in a ready state below the top of the store sends their seven characters and
completes (R183, R36). -/
theorem exec_render {s : State} {o : BitVec 4} {m : BitVec 10} (hdrv : s.drv = .ready) (ho : s.ones = some o)
    (hm : s.decm = some m) (hpc : s.pc ≠ 15#4) :
    exec .render s = .next { sendText (text7 o m) s with pc := s.pc + 1#4 } := by
  simp only [exec, execRender, ifReady_eq hdrv, withValue, ho, hm]
  rw [advance_eq (by rwa [sendText_pc]), sendText_pc]

/-- Text sent to an active, lit, unpoisoned display from the start of its blank line 2 shows there, with blanks after it,
and the cursor stands behind it (R84, R87). -/
theorem shows_takeAll_of_blank {nCols : Nat} {d : Display} {text : List Byte} (hn : nCols ≤ 40)
    (hfits : text.length ≤ nCols) (ha : d.active = true) (hp : d.poison = false) (hon : d.on = true)
    (hcur : d.cur = some 40#7) (hblank : ∀ a, 40 ≤ a → a < 40 + nCols → d.cell a = some Config.blank) :
    (d.takeAll nCols (text.map fun c => (1#1, c))).Shows nCols 40 text ∧
    (d.takeAll nCols (text.map fun c => (1#1, c))).cur = some (BitVec.ofNat 7 (40 + text.length)) := by
  obtain ⟨hact, hpoi, hlit, hcur', hcell⟩ := Display.takeAll_line2 hn text d 0 ha hp hcur (by omega)
  refine ⟨⟨hfits, hact, hpoi, hlit.trans hon, fun i hi => ?_, fun i hlo hhi => ?_⟩, hcur'⟩
  · rw [hcell, if_pos (by omega), Nat.add_zero, Nat.add_sub_cancel_left]
  · rw [hcell, if_neg (by omega), hblank _ (by omega) (by omega)]

/-- The parameters of R8 leave line 2 room for the seven characters of the voltage. -/
theorem seven_le_nCols_of_wf {cfg : Config.Params} (h : cfg.wf = true) : 7 ≤ cfg.nCols := by
  simp only [Config.Params.wf, Bool.and_eq_true, decide_eq_true_eq] at h
  obtain ⟨⟨_, hseven⟩, _⟩ := h
  exact hseven

/-- Settles O32: `CLR2` completes by `exec_clr2` and leaves line 2 blank with the cursor at its start; `RENDER` then sends
the text to that line, where `shows_takeAll_of_blank` applies. -/
theorem clr2ThenRenderShowsTheVoltage : Obligations.Clr2ThenRenderShowsTheVoltage := by
  intro s o m hdrv hpc ha hp hon hcfg ho hm
  have hpc₁ : s.pc ≠ 15#4 := by bv_omega
  have hpc₂ : s.pc + 1#4 ≠ 15#4 := by bv_omega
  have hn : s.cfg.nCols ≤ 40 := Lcd.nCols_le_of_wf hcfg
  obtain ⟨cells, hclr2, hread⟩ := Lcd.takeAll_clr2Transfers hn ha hp
  have hblank (a : Nat) (hlo : 40 ≤ a) (hhi : a < 40 + s.cfg.nCols) : Memory.read cells a = some Config.blank :=
    (hread a).trans (if_pos ⟨hlo, hhi⟩)
  have hshows := shows_takeAll_of_blank (d := { s.disp with cur := some 40#7, cells := cells }) (text := text7 o m)
    hn (seven_le_nCols_of_wf hcfg) ha hp hon rfl hblank
  rw [← hclr2] at hshows
  have hdisp := sendText_disp (text7 o m) (Lcd.afterClr2 s)
  exact ⟨Lcd.afterClr2 s, _, Lcd.exec_clr2 hdrv hpc₁, exec_render hdrv ho hm hpc₂, hdisp ▸ hshows⟩

end Sys2Proof.Proofs.Sequencer

/-! Family `60_exceptions`: an operation that completes past the end of the program store is refused after its whole effect
(O37). What an operation does before `pc` advances neither reads nor writes `pc`, so at the top of the store it does the
same, and the advance alone answers differently. -/

namespace Sys2Proof.Proofs.Exceptions

open Sys2Proof Sys2Proof.Machine

/-! ## State operations that leave `pc` to the advance -/

/-- The operation neither reads nor writes `pc`. -/
def PcBlind (f : State → State) : Prop := ∀ s p, f { s with pc := p } = { f s with pc := p }

theorem PcBlind.comp {f g : State → State} (hf : PcBlind f) (hg : PcBlind g) : PcBlind fun s => f (g s) :=
  fun s p => by simp only [hg s p, hf (g s) p]

theorem pcBlind_emit (evs : List Event) : PcBlind (emit evs) := fun _ _ => rfl

theorem pcBlind_driveLive (v : Bit) : PcBlind (driveLive v) := fun _ _ => rfl

theorem pcBlind_writeByte (rs : Bit) (b : Byte) : PcBlind (writeByte rs b) := fun _ _ => rfl

theorem pcBlind_sendText (text : List Byte) : PcBlind (sendText text) := fun _ _ => by
  simp only [sendText_eq_sendBytes, sendBytes_eq]

theorem pcBlind_sendCommands (bytes : List Byte) : PcBlind (sendCommands bytes) := fun _ _ => by
  simp only [sendCommands_eq_sendBytes, sendBytes_eq]

theorem pcBlind_homeLine2 : PcBlind homeLine2 := pcBlind_writeByte _ _

theorem pcBlind_blankLine2 : PcBlind blankLine2 := fun s =>
  (pcBlind_homeLine2.comp ((pcBlind_sendText (List.replicate s.cfg.nCols Config.blank)).comp pcBlind_homeLine2)) s

theorem pcBlind_resetPhase : PcBlind resetPhase := fun _ _ => rfl

theorem pcBlind_capture (v : Nat) : PcBlind (capture v) := fun _ _ => rfl

theorem pcBlind_formatRegs (raw : BitVec 8) : PcBlind (formatRegs raw) := fun _ _ => rfl

/-! ## The advance at the top of the store -/

/-- Where the advance completes at some address, it is refused at the top of the store, with the same effect before it
(R36, R217). -/
theorem PcBlind.advance_at_top {f : State → State} (hf : PcBlind f) {s t : State} (h : advance (f s) = .next t) :
    advance (f { s with pc := 15#4 }) = .refused (.pcPastEndOfProgramStore { t with pc := 15#4 }) := by
  obtain ⟨-, rfl⟩ := advance_next h
  rw [hf s 15#4, advance_top rfl]

/-- The same behind the test of the driver state, which does not read `pc` either (R127). -/
theorem PcBlind.ifReady_advance_at_top {f : State → State} (hf : PcBlind f) {s t : State}
    (h : ifReady s (advance (f s)) = .next t) :
    ifReady { s with pc := 15#4 } (advance (f { s with pc := 15#4 })) =
      .refused (.pcPastEndOfProgramStore { t with pc := 15#4 }) := by
  obtain ⟨hdrv, h⟩ := ifReady_next h
  exact (ifReady_eq hdrv).trans (hf.advance_at_top h)

theorem ifUninitialized_eq {s : State} {r : Result} (h : s.drv = .uninitialized) : ifUninitialized s r = r := by
  simp [ifUninitialized, h]

theorem withValue_of_some {α : Type} {reg : Option α} {k : α → Result} {v : α} (h : reg = some v) :
    withValue reg k = k v := by rw [h, withValue]

/-- `pc` never is its own successor, not even at the top of the store. -/
theorem pc_ne_succ (p : StoreAddr) : p ≠ p + 1#4 := by bv_omega

/-! ## The operations, by kind -/

/-- `INIT` (R140). -/
theorem init_at_top {s t : State} (h : exec .init s = .next t) :
    exec .init { s with pc := 15#4 } = .refused (.pcPastEndOfProgramStore { t with pc := 15#4 }) := by
  have hsent : PcBlind fun s => sendCommands modeCommands (resetPhase s) :=
    (pcBlind_sendCommands _).comp pcBlind_resetPhase
  have hstart : PcBlind fun s => { s with drv := .ready, disp := s.disp.start } := fun _ _ => rfl
  obtain ⟨hdrv, h⟩ := ifUninitialized_next h
  exact (ifUninitialized_eq hdrv).trans ((hstart.comp hsent).advance_at_top h)

/-- `RENDER`: the registers it reads stand beside `pc` (R183). -/
theorem render_at_top {s t : State} (h : exec .render s = .next t) :
    exec .render { s with pc := 15#4 } = .refused (.pcPastEndOfProgramStore { t with pc := 15#4 }) := by
  obtain ⟨hdrv, h⟩ := ifReady_next h
  obtain ⟨o, ho, h⟩ := withValue_next h
  obtain ⟨m, hm, h⟩ := withValue_next h
  have hexec : exec .render { s with pc := 15#4 } = advance (sendText (text7 o m) { s with pc := 15#4 }) :=
    (ifReady_eq hdrv).trans ((withValue_of_some ho).trans (withValue_of_some hm))
  exact hexec.trans ((pcBlind_sendText _).advance_at_top h)

/-- A `PUTS` that completes has advanced `pc` by its length, without wrapping (R143, R36). -/
theorem wdatEach_pc {text : List Byte} {s t : State} (h : wdatEach text s = .next t) :
    t.pc.toNat = s.pc.toNat + text.length := by
  induction text generalizing s with
  | nil => cases h; rfl
  | cons c text ih =>
    rw [wdatEach] at h
    cases hu : advance (writeByte Config.rsData c s) with
    | next u =>
      simp only [hu] at h
      obtain ⟨hpc, rfl⟩ := advance_next hu
      have hsucc : (s.pc + 1#4).toNat = s.pc.toNat + 1 := by rw [writeByte_pc] at hpc; bv_omega
      rw [ih h, writeByte_pc, hsucc, List.length_cons, Nat.add_right_comm, Nat.add_assoc]
    | fault f => simp [hu] at h
    | refused r => simp [hu] at h

/-- A `PUTS` of one character is its word `WDAT` (R103). -/
theorem exec_puts_singleton (c : Byte) (s : State) : exec (.puts [c]) s = exec (.wdat c) s := by
  simp only [exec, execPuts, execWdat, wdatEach]
  cases advance (writeByte Config.rsData c s) <;> rfl

/-- A `PUTS` that advances `pc` by one has one character. -/
theorem length_eq_one_of_puts {text : List Byte} {s t : State} (h : exec (.puts text) s = .next t)
    (hpc : t.pc = s.pc + 1#4) : text.length = 1 := by
  obtain ⟨-, h⟩ := ifReady_next h
  have hlen := wdatEach_pc h
  rw [hpc] at hlen
  bv_omega

/-- The operations that are byte transfers; `WBYTE` alone does not advance `pc`. -/
theorem sender_at_top {i : Instr} {s t : State} (hi : Sender i) (h : exec i s = .next t) (hpc : t.pc = s.pc + 1#4) :
    exec i { s with pc := 15#4 } = .refused (.pcPastEndOfProgramStore { t with pc := 15#4 }) := by
  have byte_at_top (rs : Bit) (b : Byte) := (pcBlind_writeByte rs b).ifReady_advance_at_top (s := s) (t := t)
  cases hi with
  | clear => exact ((pcBlind_emit _).comp (pcBlind_writeByte _ _)).ifReady_advance_at_top h
  | goto a => exact byte_at_top _ _ h
  | goto2 => exact byte_at_top _ _ h
  | wcmd b => exact byte_at_top _ _ h
  | wdat b => exact byte_at_top _ _ h
  | clr2 => exact pcBlind_blankLine2.ifReady_advance_at_top h
  | render => exact render_at_top h
  | puts text =>
    obtain ⟨c, rfl⟩ := List.length_eq_one_iff.mp (length_eq_one_of_puts h hpc)
    rw [exec_puts_singleton] at h ⊢
    exact byte_at_top _ _ h
  | wbyte rs b => cases h; exact absurd hpc (pc_ne_succ s.pc)

/-! ## The statement -/

/-- R36, R217 from every address: an instruction other than a jump that completes with `pc` advanced by one is refused at
the top of the store with the same effect. -/
theorem exec_at_top {i : Instr} {s t : State} (hjmp : ∀ a, i ≠ .jmp a) (hloop : i ≠ .loop) (h : exec i s = .next t)
    (hpc : t.pc = s.pc + 1#4) :
    exec i { s with pc := 15#4 } = .refused (.pcPastEndOfProgramStore { t with pc := 15#4 }) := by
  cases exec_did h with
  | sender hi => exact sender_at_top hi h hpc
  | init hi => subst hi; exact init_at_top h
  | capture hi hp v hv =>
    subst hi
    rw [Sampler.exec_sample_of_done hp hv] at h
    have hexec := Sampler.exec_sample_of_done (s := { s with pc := 15#4 }) hp hv
    exact hexec.trans (((pcBlind_capture v).comp (pcBlind_emit _)).advance_at_top h)
  | format hi raw hraw =>
    subst hi
    rw [Formatter.exec_format_of_raw hraw] at h
    have hexec := Formatter.exec_format_of_raw (s := { s with pc := 15#4 }) hraw
    exact hexec.trans ((pcBlind_formatRegs raw).advance_at_top h)
  | live hi =>
    obtain rfl | rfl | ⟨v, rfl⟩ := hi
    · exact (pcBlind_driveLive _).advance_at_top h
    · exact (pcBlind_driveLive _).advance_at_top h
    · exact (pcBlind_driveLive v).advance_at_top h
  | wait hi => subst hi; exact (pcBlind_emit _).advance_at_top h
  | jump hi =>
    obtain rfl | ⟨a, rfl⟩ := hi
    · exact absurd rfl hloop
    · exact absurd rfl (hjmp a)
  | sampleStart _ _ _ ht => subst ht; exact absurd hpc (pc_ne_succ s.pc)
  | poll _ _ _ ht => subst ht; exact absurd hpc (pc_ne_succ s.pc)
  | controller _ _ _ ht => subst ht; exact absurd hpc (pc_ne_succ s.pc)
  | micro _ _ _ ht => subst ht; exact absurd hpc (pc_ne_succ s.pc)

/-- Settles O37: the completion at the address 0 is an advance by one, where `exec_at_top` applies. -/
theorem completionAtFifteenIsRefusedAfterItsEffect : Obligations.CompletionAtFifteenIsRefusedAfterItsEffect := by
  intro i s t hjmp hloop hzero h hone
  have hadvanced : t.pc = s.pc + 1#4 := by rw [hzero, hone]; rfl
  exact exec_at_top hjmp hloop h hadvanced

end Sys2Proof.Proofs.Exceptions

/-! Family `other`, the whole machine: which instruction writes which register (O50, O51), the digits (O57), and what a step
puts on the display lines (O54, O55, O58), from the state that reset leaves on (O59). -/

namespace Sys2Proof.Proofs.Whole

open Sys2Proof Sys2Proof.Machine

/-! ## Which instruction writes which register -/

/-- What an instruction leaves alone unless it is the writer: the sampler's registers belong to `SAMPLE`, the digits to
`FORMAT`, the liveness line to `LIVE` and its names, the driver state to `INIT` (R21, R31, R32, R38). -/
structure Keeps (i : Instr) (s t : State) : Prop where
  sampler : i ≠ .sample → t.raw = s.raw ∧ t.adcCh = s.adcCh ∧ t.adcRef = s.adcRef ∧ t.conv = s.conv ∧
    t.phase = s.phase ∧ t.env = s.env
  digits : i ≠ .format → t.scaled = s.scaled ∧ t.ones = s.ones ∧ t.decm = s.decm
  live : i ≠ .liveoff → i ≠ .liveon → (∀ v, i ≠ .live v) → t.live = s.live
  driver : i ≠ .init → t.drv = s.drv

/-- Every kind of effect writes only the registers of its own instruction. -/
theorem did_keeps {i : Instr} {s t : State} (h : Did i s t) : Keeps i s t := by
  cases h with
  | sender _ _ hs => obtain ⟨_, _, _, _, rfl, _⟩ := hs; constructor <;> simp
  | init hi _ ht => subst hi ht; constructor <;> simp
  | sampleStart hi _ _ ht _ => subst hi ht; constructor <;> simp
  | capture hi _ _ _ ht => subst hi ht; constructor <;> simp
  | poll hi _ _ ht _ => subst hi ht; constructor <;> simp
  | format hi _ _ ht => subst hi ht; constructor <;> simp
  | live hi _ ht => subst ht; obtain rfl | rfl | ⟨v, rfl⟩ := hi <;> constructor <;> simp
  | wait _ ht => subst ht; constructor <;> simp
  | jump _ _ ht => subst ht; constructor <;> simp
  | controller _ _ _ ht => subst ht; constructor <;> simp
  | micro _ _ _ ht => subst ht; constructor <;> simp

/-- Settles O50: a register that differs was written, so by `did_keeps` the instruction is its writer. -/
theorem eachRegisterHasItsWriter : Obligations.EachRegisterHasItsWriter := by
  intro i s t h
  obtain ⟨hsampler, hdigits, hlive, -⟩ := did_keeps (exec_did h)
  refine ⟨fun hne => ?_, fun hne => ?_, fun hne => ?_, fun hne => ?_⟩
  · by_contra hi
    obtain ⟨hraw, -⟩ := hsampler hi
    exact hne hraw
  · by_contra hi
    obtain ⟨-, hch, -⟩ := hsampler hi
    exact hne hch
  · by_contra hi
    obtain ⟨hscaled, hones, hdecm⟩ := hdigits hi
    tauto
  · by_contra hi
    push Not at hi
    obtain ⟨hoff, hon, hv⟩ := hi
    exact hne (hlive hoff hon hv)

/-- `SAMPLE` leaves `RAW` or captures a value into it (R164). -/
theorem sample_keeps_raw_written {s t : State} (h : exec .sample s = .next t) (hraw : s.raw.isSome) : t.raw.isSome := by
  obtain ⟨_, _, rfl, _⟩ | ⟨_, _, _, _, rfl⟩ | ⟨_, _, _, rfl, _⟩ := sample_next h
  · exact hraw
  · rfl
  · exact hraw

/-- Settles O51: the writer of a register writes a value, and every other instruction leaves it by `did_keeps`. -/
theorem writtenRegistersStayWritten : Obligations.WrittenRegistersStayWritten := by
  intro i s t h
  have hkeeps := did_keeps (exec_did h)
  refine ⟨fun hraw => ?_, ?_⟩
  · by_cases hi : i = .sample
    · subst hi; exact sample_keeps_raw_written h hraw
    · obtain ⟨hsame, -⟩ := hkeeps.sampler hi
      rwa [hsame]
  · by_cases hi : i = .format
    · subst hi
      obtain ⟨_, _, rfl⟩ := format_next h
      exact ⟨fun _ => rfl, fun _ => rfl, fun _ => rfl⟩
    · obtain ⟨hscaled, hones, hdecm⟩ := hkeeps.digits hi
      rw [hscaled, hones, hdecm]
      exact ⟨id, id, id⟩

/-- Settles O57: `FORMAT` writes all three registers with values in their ranges, and no other instruction writes any. -/
theorem stepKeepsTheDigits : Obligations.StepKeepsTheDigits := by
  intro s t hok h
  obtain ⟨i, -, hexec⟩ := step_next h
  by_cases hi : i = .format
  · subst hi
    obtain ⟨_, _, rfl⟩ := format_next hexec
    refine ⟨⟨rfl, rfl⟩, fun o ho => ?_, fun m hm => ?_⟩
    · cases ho; exact Formatter.onesOf_le _
    · cases hm; exact Formatter.decmOf_le _
  · obtain ⟨hscaled, hones, hdecm⟩ := (did_keeps (exec_did hexec)).digits hi
    constructor
    · rw [hscaled, hones, hdecm]; exact hok.together
    · rw [hones]; exact hok.ones
    · rw [hdecm]; exact hok.decm

/-! ## What a step puts on the display lines -/

/-- What a step can have done to the display and its lines, by what its events show on them. -/
inductive Drove (s t : State) : Prop
  /-- Byte transfers, none unless the driver is ready, and then events that drive no display line (R127). -/
  | transfers (xs : List (Bit × Byte)) (evs : List Event) (hready : s.drv = .uninitialized → xs = [])
      (hquiet : evs.all Event.quiet = true) (htrace : t.trace = s.trace ++ (transferEvents xs ++ evs))
      (hdisp : t.disp = s.disp.takeAll s.cfg.nCols xs) (hdrv : t.drv = s.drv) (hrest : s.e = 1#1 → t.e = 1#1)
  /-- The reset phase, then byte transfers, then the start of the driver and of the observer (R140, R81). -/
  | started (xs : List (Bit × Byte)) (hbefore : s.drv = .uninitialized) (hafter : t.drv = .ready)
      (htrace : t.trace = s.trace ++ (resetEvents s.cfg.resetNibble ++ transferEvents xs))
      (hdisp : t.disp = (s.disp.takeAll s.cfg.nCols xs).start) (hrest : t.e = 1#1)

/-- An effect that leaves the display and its lines alone. -/
theorem Drove.of_quiet {s t : State} (evs : List Event) (hquiet : evs.all Event.quiet = true)
    (htrace : t.trace = s.trace ++ evs) (hdisp : t.disp = s.disp) (hdrv : t.drv = s.drv) (he : t.e = s.e) :
    Drove s t :=
  .transfers [] evs (fun _ => rfl) hquiet htrace hdisp hdrv (he ▸ id)

/-- Configuring the converter drives no display line. -/
theorem quiet_configEvents (cfg : Config.Params) : (configEvents cfg).all Event.quiet = true := by
  unfold configEvents; split <;> rfl

/-- The step of a display operation: its transfers, and the delay of `CLEAR`. -/
theorem sender_drove {i : Instr} {s t : State} {xs : List (Bit × Byte)} (hi : Sender i) (hw : ∀ rs b, i ≠ .wbyte rs b)
    (h : exec i s = .next t)
    (hs : Sends s t xs (transferEvents xs ++ if i = .clear then [.delay Config.tClear] else [])) : Drove s t := by
  have hdrv := sender_ready hi hw h
  obtain ⟨_, _, _, _, rfl, hrest⟩ := hs
  refine .transfers xs _ (fun hun => ?_) ?_ rfl rfl rfl hrest
  · cases hdrv.symm.trans hun
  · split <;> rfl

/-- Every step that answers a next state drove the lines in one of the two ways: it ran an operation (R97), never a frame
or a micro-operation. -/
theorem step_drove {s t : State} (h : step s = .next t) : Drove s t := by
  obtain ⟨i, hdecoded, hexec⟩ := step_next h
  obtain ⟨hctrl, hstrobe, hnib, hwbyte⟩ := decodeOp_operation hdecoded
  cases exec_did hexec with
  | sender hi xs hs => exact sender_drove hi hwbyte hexec hs
  | init _ hdrv ht => subst ht; exact .started _ hdrv rfl rfl rfl rfl
  | sampleStart _ _ _ ht _ =>
    subst ht
    exact .of_quiet _ (by simp [quiet_configEvents, Event.quiet]) rfl rfl rfl rfl
  | capture _ _ _ _ ht => subst ht; exact .of_quiet _ rfl rfl rfl rfl rfl
  | poll _ _ _ ht _ => subst ht; exact .of_quiet _ rfl rfl rfl rfl rfl
  | format _ _ _ ht => subst ht; exact .of_quiet [] rfl (List.append_nil _).symm rfl rfl rfl
  | live _ _ ht => subst ht; exact .of_quiet _ rfl rfl rfl rfl rfl
  | wait _ ht => subst ht; exact .of_quiet _ rfl rfl rfl rfl rfl
  | jump _ _ ht => subst ht; exact .of_quiet [] rfl (List.append_nil _).symm rfl rfl rfl
  | controller hi => exact absurd hi hctrl
  | micro hi =>
    obtain hi | ⟨n, hi⟩ := hi
    · exact absurd hi hstrobe
    · exact absurd hi (hnib n)

/-- On a free, settled interface the monitor reads the transfers off their events, whatever follows without driving a
line (R125). -/
theorem monitor_transfers_quiet {m : Monitor} (hfree : m.stage = .free) (hsettled : m.settled = true)
    (xs : List (Bit × Byte)) {evs : List Event} (hquiet : evs.all Event.quiet = true) :
    ((transferEvents xs ++ evs).foldl Monitor.next m).stage = .free ∧
    ((transferEvents xs ++ evs).foldl Monitor.next m).settled = true ∧
    ((transferEvents xs ++ evs).foldl Monitor.next m).transfers = m.transfers ++ xs := by
  rw [List.foldl_append]
  obtain ⟨hstage, hset, htransfers⟩ := monitor_transferEvents xs m hfree hsettled
  obtain ⟨hstage', htransfers', hset'⟩ := monitor_quiet evs _ hquiet hstage
  exact ⟨hstage', hset' hset, htransfers'.trans htransfers⟩

/-- Settles O54: a ready driver is not started again, and `monitor_transfers_quiet` reads the step's transfers back. -/
theorem displayIsDrivenByTheLinesAlone : Obligations.DisplayIsDrivenByTheLinesAlone := by
  intro s t hdrv h
  cases step_drove h with
  | transfers xs evs _ hquiet htrace hdisp =>
    obtain ⟨-, -, htransfers⟩ := monitor_transfers_quiet (m := .settledStart) rfl rfl xs hquiet
    have hread : transfersOf (transferEvents xs ++ evs) = xs := htransfers
    exact ⟨_, htrace, hread.symm ▸ hdisp⟩
  | started _ hbefore => cases hdrv.symm.trans hbefore

/-! ## The invariants -/

/-- With the driver ready the trace must be free and settled. -/
theorem framed_of_ready {t : State} (hdrv : t.drv = .ready) (hfree : (monitor t.trace).stage = .free)
    (hsettled : (monitor t.trace).settled = true) : t.Framed :=
  ⟨hfree, fun hun => (nomatch hdrv.symm.trans hun), fun _ => hsettled⟩

/-- With the driver uninitialized the trace must be free and without transfers. -/
theorem framed_of_uninitialized {t : State} (hdrv : t.drv = .uninitialized) (hfree : (monitor t.trace).stage = .free)
    (hsilent : (monitor t.trace).transfers = []) : t.Framed :=
  ⟨hfree, fun _ => hsilent, fun hready => (nomatch hdrv.symm.trans hready)⟩

/-- The transfers of a ready driver keep the protocol, and so do quiet events before it is ready. -/
theorem framed_of_transfers {s t : State} {xs : List (Bit × Byte)} {evs : List Event} (hok : s.Framed)
    (hready : s.drv = .uninitialized → xs = []) (hquiet : evs.all Event.quiet = true)
    (htrace : t.trace = s.trace ++ (transferEvents xs ++ evs)) (hdrv : t.drv = s.drv) : t.Framed := by
  obtain ⟨hfree, hsilent, hsettled⟩ := hok
  have hmon : monitor t.trace = (transferEvents xs ++ evs).foldl Monitor.next (monitor s.trace) := by
    rw [htrace, monitor_append]
  cases hs : s.drv with
  | ready =>
    obtain ⟨hstage, hset, -⟩ := monitor_transfers_quiet hfree (hsettled hs) xs hquiet
    rw [← hmon] at hstage hset
    exact framed_of_ready (hdrv.trans hs) hstage hset
  | uninitialized =>
    obtain ⟨hstage, htransfers, -⟩ := monitor_quiet evs _ hquiet hfree
    have hsame : monitor t.trace = evs.foldl Monitor.next (monitor s.trace) := by rw [hmon, hready hs]; rfl
    rw [← hsame] at hstage htransfers
    exact framed_of_uninitialized (hdrv.trans hs) hstage (htransfers.trans (hsilent hs))

/-- The reset phase settles the interface before the first transfer (R140, R252). -/
theorem framed_of_started {s t : State} {xs : List (Bit × Byte)} {n : Nibble} (hok : s.Framed)
    (hbefore : s.drv = .uninitialized) (hafter : t.drv = .ready)
    (htrace : t.trace = s.trace ++ (resetEvents n ++ transferEvents xs)) : t.Framed := by
  obtain ⟨hfree, hsettled, -⟩ := monitor_resetEvents _ n hok.free (hok.silent hbefore)
  obtain ⟨hstage, hset, -⟩ := monitor_transferEvents xs _ hfree hsettled
  rw [← List.foldl_append, ← monitor_append, ← htrace] at hstage hset
  exact framed_of_ready hafter hstage hset

/-- Settles O55: both ways of driving the lines keep the protocol. -/
theorem stepKeepsTheProtocol : Obligations.StepKeepsTheProtocol := by
  intro s t hok h
  cases step_drove h with
  | transfers xs evs hready hquiet htrace _ hdrv => exact framed_of_transfers hok hready hquiet htrace hdrv
  | started xs hbefore hafter htrace => exact framed_of_started hok hbefore hafter htrace

/-- Settles O58: transfers neither start nor stop the observer and keep its memory canonical; the start makes observer and
driver active together, with an empty memory. -/
theorem stepKeepsObserverStrobeAndMemory : Obligations.StepKeepsObserverStrobeAndMemory := by
  intro s t h
  cases step_drove h with
  | transfers xs _ _ _ _ hdisp hdrv hrest =>
    refine ⟨fun hok => ?_, hrest, fun hok => ?_⟩
    · rw [State.ObserverOk, hdisp, hdrv, Display.takeAll_active]; exact hok
    · rw [State.MemoryOk, hdisp]; exact Display.takeAll_wf xs hok
  | started xs _ hafter _ hdisp hrest =>
    refine ⟨fun _ => ?_, fun _ => hrest, fun _ => ?_⟩
    · rw [State.ObserverOk, hdisp, hafter]; exact iff_of_true rfl rfl
    · rw [State.MemoryOk, hdisp]; exact Memory.wf_nil

/-- Settles O59: no `SAMPLE` is under way, no register holds a value, the observer and the driver are both inactive, and
the trace and the memory are empty. -/
theorem resetMeetsEveryInvariant : Obligations.ResetMeetsEveryInvariant :=
  ⟨⟨rfl, fun _ => rfl, nofun⟩, ⟨nofun, nofun, nofun⟩, ⟨⟨rfl, rfl⟩, nofun, nofun⟩, iff_of_false nofun nofun, rfl,
    Memory.wf_nil⟩

end Sys2Proof.Proofs.Whole

/-! Family `other`, the encodings: the operation table takes each word at most once (O7), so an operation's word decodes
back to it (O2, O4) and a decoded word is its operation's word (O5); the illegal words (O6); latch words (O9). -/

namespace Sys2Proof.Proofs.Encoding

open Sys2Proof Sys2Proof.Machine

/-! ## The two fields of an operation word -/

@[simp] theorem opField_opWord (op : BitVec 4) (imm : Byte) : opField (opWord op imm) = op :=
  BitVec.extractLsb'_append_eq_left

@[simp] theorem immField_opWord (op : BitVec 4) (imm : Byte) : immField (opWord op imm) = imm :=
  BitVec.extractLsb'_append_eq_right

/-- Every word is its operation code and its immediate (R96). -/
theorem opWord_fields (w : OpWord) : opWord (opField w) (immField w) = w := BitVec.extractLsb'_append_extractLsb'

theorem eq_iff_fields {v w : OpWord} : v = w ↔ opField v = opField w ∧ immField v = immField w := by
  refine ⟨fun h => h ▸ ⟨rfl, rfl⟩, fun ⟨hop, himm⟩ => ?_⟩
  rw [← opWord_fields v, ← opWord_fields w, hop, himm]

/-! ## The rows of the table -/

/-- A row takes a word by its operation code, tested in full, and by the part of the immediate that must be zero (R97). -/
theorem takes_iff {r : OpRow} (hr : r ∈ opTable) (w : OpWord) :
    r.takes w = true ↔ opField w = opField r.pattern ∧ immField w &&& immField r.mask = immField r.pattern := by
  have hmask : ∀ q ∈ opTable, opField q.mask = BitVec.allOnes 4 := by decide
  have hop : opField (w &&& r.mask) = opField w := by
    rw [opField, BitVec.extractLsb'_and, ← opField, ← opField, hmask r hr, BitVec.and_allOnes]
  have himm : immField (w &&& r.mask) = immField w &&& immField r.mask := BitVec.extractLsb'_and
  rw [OpRow.takes, beq_iff_eq, eq_iff_fields, hop, himm]

/-- Settles O7: the operation codes of the rows are different, and a row takes only words of its code. -/
theorem oneRowTakesAWord : Obligations.OneRowTakesAWord := by
  have hcodes : opTable.Pairwise fun r q => opField r.pattern ≠ opField q.pattern := by decide
  refine hcodes.imp_of_mem fun {r q} hr hq hne w hw => ?_
  obtain ⟨hop, -⟩ := (takes_iff hr w).mp hw
  rw [← Bool.not_eq_true, takes_iff hq]
  exact fun ⟨hop', _⟩ => hne (hop.symm.trans hop')

/-- In a table whose rows take different words, the row that takes a word is the one that is found. -/
theorem findRow_of_takes {rows : List OpRow} {r : OpRow} {w : OpWord}
    (hdisjoint : rows.Pairwise fun r q => ∀ w, r.takes w = true → q.takes w = false) (hr : r ∈ rows)
    (hw : r.takes w = true) : findRow w rows = some (r.build w) := by
  induction rows with
  | nil => cases hr
  | cons q rows ih =>
    obtain ⟨hq, hrows⟩ := List.pairwise_cons.mp hdisjoint
    rw [findRow]
    obtain rfl | hr := List.mem_cons.mp hr
    · rw [if_pos hw]
    · have hnot : ¬ q.takes w = true := fun hqw => Bool.false_ne_true ((hq r hr w hqw).symm.trans hw)
      rw [if_neg hnot, ih hrows hr]

/-- The row that is found takes the word. -/
theorem takes_of_findRow {rows : List OpRow} {w : OpWord} {i : Instr} (h : findRow w rows = some i) :
    ∃ r ∈ rows, r.takes w = true ∧ r.build w = i := by
  induction rows with
  | nil => cases h
  | cons q rows ih =>
    rw [findRow] at h
    split at h
    · exact ⟨q, List.mem_cons_self, ‹_›, Option.some.inj h⟩
    · obtain ⟨r, hr, hw⟩ := ih h
      exact ⟨r, List.mem_cons_of_mem q hr, hw⟩

/-- Decoding is the table: a word decodes to what the row that takes it builds (R97). -/
theorem decodeOp_eq_ok_iff {w : OpWord} {i : Instr} :
    decodeOp w = .ok i ↔ ∃ r ∈ opTable, r.takes w = true ∧ r.build w = i := by
  constructor
  · intro h
    unfold decodeOp at h
    split at h
    · cases h; exact takes_of_findRow ‹_›
    · cases h
  · rintro ⟨r, hr, hw, rfl⟩
    rw [decodeOp, findRow_of_takes oneRowTakesAWord hr hw]

/-! ## Operands narrower than the immediate -/

/-- The bit of `GOTO` that R99 wants zero stands above the address. -/
theorem immField_eq_addr (w : OpWord) : immField w = w.extractLsb' 7 1 ++ addrField w :=
  (BitVec.extractLsb'_append_extractLsb'_eq_extractLsb' (start₂ := 7) (start₁ := 0) (len₁ := 7) rfl).symm

/-- The bits of `LIVE` that R99 wants zero stand above the level. -/
theorem immField_eq_level (w : OpWord) : immField w = w.extractLsb' 1 7 ++ levelField w :=
  (BitVec.extractLsb'_append_extractLsb'_eq_extractLsb' (start₂ := 1) (start₁ := 0) (len₁ := 1) rfl).symm

/-- The bits of `JMP` that R99 wants zero stand above the target. -/
theorem immField_eq_target (w : OpWord) : immField w = w.extractLsb' 4 4 ++ targetField w :=
  (BitVec.extractLsb'_append_extractLsb'_eq_extractLsb' (start₂ := 4) (start₁ := 0) (len₁ := 4) rfl).symm

/-- A mask of the upper bits tests them and leaves the lower ones free. -/
theorem append_and_upper_iff {m n : Nat} (x : BitVec m) (y : BitVec n) :
    (x ++ y) &&& (BitVec.allOnes m ++ 0#n) = 0#m ++ 0#n ↔ x = 0#m := by
  rw [BitVec.and_append, BitVec.and_allOnes, BitVec.and_zero, BitVec.append_left_inj]

theorem and_gotoMask_iff (w : OpWord) : immField w &&& 0x80#8 = 0#8 ↔ w.extractLsb' 7 1 = 0#1 := by
  rw [immField_eq_addr]; exact append_and_upper_iff _ _

theorem and_liveMask_iff (w : OpWord) : immField w &&& 0xFE#8 = 0#8 ↔ w.extractLsb' 1 7 = 0#7 := by
  rw [immField_eq_level]; exact append_and_upper_iff _ _

theorem and_jmpMask_iff (w : OpWord) : immField w &&& 0xF0#8 = 0#8 ↔ w.extractLsb' 4 4 = 0#4 := by
  rw [immField_eq_target]; exact append_and_upper_iff _ _

/-- The operand below zero bits is the one that is read back (R98). -/
theorem addrField_opWord (op : BitVec 4) (a : DispAddr) : addrField (opWord op (0#1 ++ a)) = a := by
  rw [addrField, opWord, BitVec.extractLsb'_append_eq_of_add_le (by decide), BitVec.extractLsb'_append_eq_right]

theorem levelField_opWord (op : BitVec 4) (v : Bit) : levelField (opWord op (0#7 ++ v)) = v := by
  rw [levelField, opWord, BitVec.extractLsb'_append_eq_of_add_le (by decide), BitVec.extractLsb'_append_eq_right]

theorem targetField_opWord (op : BitVec 4) (t : StoreAddr) : targetField (opWord op (0#4 ++ t)) = t := by
  rw [targetField, opWord, BitVec.extractLsb'_append_eq_of_add_le (by decide), BitVec.extractLsb'_append_eq_right]

/-! ## The words of the operations -/

/-- The word of an operation code and an immediate that row `k` of the table takes decodes to what the row builds (R97). -/
theorem decodeOp_opWord (k : Nat) {r : OpRow} (hk : opTable[k]? = some r) {op : BitVec 4} {imm : Byte} {i : Instr}
    (hop : op = opField r.pattern) (himm : imm &&& immField r.mask = immField r.pattern)
    (hbuild : r.build (opWord op imm) = i) : decodeOp (opWord op imm) = .ok i := by
  have hr : r ∈ opTable := List.mem_of_getElem? hk
  refine decodeOp_eq_ok_iff.mpr ⟨r, hr, (takes_iff hr _).mpr ?_, hbuild⟩
  rw [opField_opWord, immField_opWord]
  exact ⟨hop, himm⟩

theorem decodeOp_goto (a : DispAddr) : decodeOp (opWord 0x3#4 (0#1 ++ a)) = .ok (.goto a) :=
  decodeOp_opWord 2 rfl rfl ((append_and_upper_iff _ _).mpr rfl) (congrArg Instr.goto (addrField_opWord _ a))

theorem decodeOp_wcmd (b : Byte) : decodeOp (opWord 0x4#4 b) = .ok (.wcmd b) :=
  decodeOp_opWord 3 rfl rfl BitVec.and_zero (congrArg Instr.wcmd (immField_opWord _ b))

theorem decodeOp_wdat (b : Byte) : decodeOp (opWord 0x5#4 b) = .ok (.wdat b) :=
  decodeOp_opWord 4 rfl rfl BitVec.and_zero (congrArg Instr.wdat (immField_opWord _ b))

theorem decodeOp_live (v : Bit) : decodeOp (opWord 0xA#4 (0#7 ++ v)) = .ok (.live v) :=
  decodeOp_opWord 9 rfl rfl ((append_and_upper_iff _ _).mpr rfl) (congrArg Instr.live (levelField_opWord _ v))

theorem decodeOp_jmp (t : StoreAddr) : decodeOp (opWord 0xC#4 (0#4 ++ t)) = .ok (.jmp t) :=
  decodeOp_opWord 11 rfl rfl ((append_and_upper_iff _ _).mpr rfl) (congrArg Instr.jmp (targetField_opWord _ t))

theorem decodeOp_reserved0 (imm : Byte) : decodeOp (opWord 0x0#4 imm) = .ok (.reserved0 imm) :=
  decodeOp_opWord 12 rfl rfl BitVec.and_zero (congrArg Instr.reserved0 (immField_opWord _ imm))

theorem decodeOp_reservedD (imm : Byte) : decodeOp (opWord 0xD#4 imm) = .ok (.reservedD imm) :=
  decodeOp_opWord 13 rfl rfl BitVec.and_zero (congrArg Instr.reservedD (immField_opWord _ imm))

theorem decodeOp_reservedE (imm : Byte) : decodeOp (opWord 0xE#4 imm) = .ok (.reservedE imm) :=
  decodeOp_opWord 14 rfl rfl BitVec.and_zero (congrArg Instr.reservedE (immField_opWord _ imm))

theorem decodeOp_reservedF (imm : Byte) : decodeOp (opWord 0xF#4 imm) = .ok (.reservedF imm) :=
  decodeOp_opWord 15 rfl rfl BitVec.and_zero (congrArg Instr.reservedF (immField_opWord _ imm))

/-! ## The statements -/

/-- Settles O4: an operation without operand has one word, every other operation the words of the lemma of its row; a
pseudo-operation has the words of its operations; frames and micro-operations have none. -/
theorem decodeAgreesWithEncode : Obligations.DecodeAgreesWithEncode := by
  intro i _
  have one {w : OpWord} {j : Instr} (h : decodeOp w = .ok j) : [w].map decodeOp = [j].map Except.ok :=
    congrArg (fun x => [x]) h
  cases i with
  | init => exact one rfl
  | clear => exact one rfl
  | clr2 => exact one rfl
  | sample => exact one rfl
  | format => exact one rfl
  | render => exact one rfl
  | wait => exact one rfl
  | goto a => exact one (decodeOp_goto a)
  | wcmd b => exact one (decodeOp_wcmd b)
  | wdat b => exact one (decodeOp_wdat b)
  | live v => exact one (decodeOp_live v)
  | jmp t => exact one (decodeOp_jmp t)
  | puts text =>
    rw [encode, expand, List.map_map, List.map_map]
    exact List.map_congr_left fun c _ => decodeOp_wdat c
  | liveoff => exact one (decodeOp_live _)
  | liveon => exact one (decodeOp_live _)
  | goto2 => exact one (decodeOp_goto _)
  | loop => exact one (decodeOp_jmp _)
  | reserved0 imm => exact one (decodeOp_reserved0 imm)
  | reservedD imm => exact one (decodeOp_reservedD imm)
  | reservedE imm => exact one (decodeOp_reservedE imm)
  | reservedF imm => exact one (decodeOp_reservedF imm)
  | _ => rfl

/-- The operation code and the immediate make the word. -/
theorem singleton_opWord {w : OpWord} {op : BitVec 4} {imm : Byte} (hop : opField w = op) (himm : immField w = imm) :
    [opWord op imm] = [w] := by rw [← hop, ← himm, opWord_fields]

/-- Settles O5: the row that takes the word fixes its operation code and the bits of its immediate outside the operand. -/
theorem encodeAgreesWithDecode : Obligations.EncodeAgreesWithDecode := by
  intro w i h
  obtain ⟨r, hr, hw, rfl⟩ := decodeOp_eq_ok_iff.mp h
  obtain ⟨hop, himm⟩ := (takes_iff hr w).mp hw
  have bare (h : immField w &&& 0xFF#8 = 0#8) : immField w = 0#8 := (BitVec.and_allOnes).symm.trans h
  simp only [opTable, List.mem_cons, List.not_mem_nil, or_false] at hr
  obtain rfl | rfl | rfl | rfl | rfl | rfl | rfl | rfl | rfl | rfl | rfl | rfl | rfl | rfl | rfl | rfl := hr
  · exact ⟨singleton_opWord hop (bare himm), rfl⟩
  · exact ⟨singleton_opWord hop (bare himm), rfl⟩
  · refine ⟨singleton_opWord hop ?_, rfl⟩
    rw [immField_eq_addr, (and_gotoMask_iff w).mp himm]
  · exact ⟨singleton_opWord hop rfl, rfl⟩
  · exact ⟨singleton_opWord hop rfl, rfl⟩
  · exact ⟨singleton_opWord hop (bare himm), rfl⟩
  · exact ⟨singleton_opWord hop (bare himm), rfl⟩
  · exact ⟨singleton_opWord hop (bare himm), rfl⟩
  · exact ⟨singleton_opWord hop (bare himm), rfl⟩
  · refine ⟨singleton_opWord hop ?_, rfl⟩
    rw [immField_eq_level, (and_liveMask_iff w).mp himm]
  · exact ⟨singleton_opWord hop (bare himm), rfl⟩
  · refine ⟨singleton_opWord hop ?_, rfl⟩
    rw [immField_eq_target, (and_jmpMask_iff w).mp himm]
  · exact ⟨singleton_opWord hop rfl, rfl⟩
  · exact ⟨singleton_opWord hop rfl, rfl⟩
  · exact ⟨singleton_opWord hop rfl, rfl⟩
  · exact ⟨singleton_opWord hop rfl, rfl⟩

/-- Settles O2: each word is that of the lemma of its row, each frame decodes by its first matching case. -/
theorem specWordsDecode : Obligations.SpecWordsDecode :=
  ⟨rfl, rfl, decodeOp_goto 40#7, decodeOp_wcmd 0xA8#8, decodeOp_wdat 0x56#8, rfl, rfl, rfl, rfl, decodeOp_live 1#1, rfl,
    decodeOp_jmp 15#4, rfl, rfl, rfl⟩

/-- Settles O9: the latch word is the level in front of the nibble, and every word is its two fields. -/
theorem latchWordsRoundTrip : Obligations.LatchWordsRoundTrip := by
  refine ⟨fun rs n => ?_, fun l => ⟨_, _, BitVec.extractLsb'_append_extractLsb', rfl, rfl⟩⟩
  rw [decodeLatch, encodeLatch, BitVec.extractLsb'_append_eq_left, BitVec.extractLsb'_append_eq_right]

/-! ## The illegal words -/

/-- A word is legal when a row that is not reserved takes it, by its code and by the zero bits of its immediate (R99). -/
theorem isLegal_iff (w : OpWord) : isLegal w = true ↔
    ∃ r ∈ opTable, (r.build w).isReserved = false ∧
      opField w = opField r.pattern ∧ immField w &&& immField r.mask = immField r.pattern := by
  constructor
  · intro h
    unfold isLegal at h
    split at h
    · obtain ⟨r, hr, hw, rfl⟩ := decodeOp_eq_ok_iff.mp ‹_›
      exact ⟨r, hr, by simpa using h, (takes_iff hr w).mp hw⟩
    · cases h
  · rintro ⟨r, hr, hlegal, hw⟩
    have hdecoded : decodeOp w = .ok (r.build w) := decodeOp_eq_ok_iff.mpr ⟨r, hr, (takes_iff hr w).mpr hw, rfl⟩
    simp [isLegal, hdecoded, hlegal]

/-- The legal words, row by row of the table (R97). -/
theorem isLegal_iff_rows (w : OpWord) : isLegal w = true ↔
    opField w = 0x1#4 ∧ immField w = 0#8 ∨ opField w = 0x2#4 ∧ immField w = 0#8 ∨
    opField w = 0x3#4 ∧ w.extractLsb' 7 1 = 0#1 ∨ opField w = 0x4#4 ∨ opField w = 0x5#4 ∨
    opField w = 0x6#4 ∧ immField w = 0#8 ∨ opField w = 0x7#4 ∧ immField w = 0#8 ∨
    opField w = 0x8#4 ∧ immField w = 0#8 ∨ opField w = 0x9#4 ∧ immField w = 0#8 ∨
    opField w = 0xA#4 ∧ w.extractLsb' 1 7 = 0#7 ∨ opField w = 0xB#4 ∧ immField w = 0#8 ∨
    opField w = 0xC#4 ∧ w.extractLsb' 4 4 = 0#4 := by
  have hbare : immField w &&& 0xFF#8 = immField w := BitVec.and_allOnes
  have hgoto := and_gotoMask_iff w
  have hlive := and_liveMask_iff w
  have hjmp := and_jmpMask_iff w
  rw [isLegal_iff]
  simp only [opField, immField] at hbare hgoto hlive hjmp ⊢
  simp [opTable, Instr.isReserved, hbare, hgoto, hlive, hjmp]

/-- The sixteen operation codes. -/
theorem opCode_cases : ∀ op : BitVec 4, op ∈ [0x0#4, 0x1#4, 0x2#4, 0x3#4, 0x4#4, 0x5#4, 0x6#4, 0x7#4, 0x8#4, 0x9#4,
    0xA#4, 0xB#4, 0xC#4, 0xD#4, 0xE#4, 0xF#4] := by decide

/-- Settles O6: each operation code on its own stands on one side of the rule or on one row of the legal words. -/
theorem illegalWordsAreThoseOfTheRule : Obligations.IllegalWordsAreThoseOfTheRule := by
  intro w
  have hbit : ∀ b : Bit, b = 1#1 ↔ ¬ b = 0#1 := by decide
  have hcode := opCode_cases (opField w)
  rw [← Bool.not_eq_true, isLegal_iff_rows, ← opField, ← immField, hbit]
  generalize opField w = op at hcode ⊢
  simp only [List.mem_cons, List.not_mem_nil, or_false] at hcode
  obtain rfl | rfl | rfl | rfl | rfl | rfl | rfl | rfl | rfl | rfl | rfl | rfl | rfl | rfl | rfl | rfl := hcode <;> simp

end Sys2Proof.Proofs.Encoding

/-! Family `other`, the display controller: a byte frame and its display instruction (O8), and what the active and the
inactive observer do with it (O39, O41, O43). -/

namespace Sys2Proof.Proofs.Controller

open Sys2Proof Sys2Proof.Machine

/-! ## Frames and their instructions -/

/-- A level is that of a data byte or that of a command byte (R92, R28). -/
theorem level_cases : ∀ rs : Bit, rs = Config.rsData ∨ rs = Config.rsCmd := by decide

theorem decodeFrame_data (b : Byte) : decodeFrame (Config.rsData ++ b) = .ok (.lcdData b) := by
  rw [decodeFrame, Observer.frameRs_append, Observer.frameByte_append, if_pos rfl]

/-- The byte of a set-cursor command is the address under a 1 (R94). -/
theorem one_append_byteAddr {b : Byte} (h : b.msb = true) : (1#1 ++ byteAddr b : Byte) = b := by
  have htop : ∀ c : Byte, c.msb = true → c.extractLsb' 7 1 = 1#1 := by decide
  have hsplit : b.extractLsb' 7 1 ++ byteAddr b = b := BitVec.extractLsb'_append_extractLsb'
  rwa [htop b h] at hsplit

/-- The set-cursor instruction of a command byte is the observer's answer to the byte (R83). -/
theorem exec_lcdSetAddr_byteAddr {b : Byte} (h : b.msb = true) (s : State) :
    exec (.lcdSetAddr (byteAddr b)) s = .next (observe (Display.command b) s) := by
  have hanswer : Display.command b = Display.setCursor (byteAddr b) := funext fun d => if_pos h
  rw [hanswer]
  rfl

/-- An instruction decoded from a command frame has this frame, and is the observer's answer to its byte (R82 to R85). -/
theorem command_of_decodeFrame {b : Byte} {i : Instr} (h : decodeFrame (Config.rsCmd ++ b) = .ok i) :
    encodeFrame i = some (Config.rsCmd ++ b) ∧ ∀ s, exec i s = .next (observe (Display.command b) s) := by
  by_cases hmsb : b.msb = true
  · rw [Observer.decodeFrame_of_msb hmsb] at h
    cases h
    exact ⟨by rw [encodeFrame, one_append_byteAddr hmsb], exec_lcdSetAddr_byteAddr hmsb⟩
  · have hcmd : Config.rsCmd ≠ Config.rsData := by decide
    simp only [decodeFrame, Observer.frameRs_append, Observer.frameByte_append, if_neg hcmd, if_neg hmsb] at h
    repeat' split at h
    all_goals cases h
    all_goals subst b; exact ⟨rfl, fun _ => rfl⟩

/-- A frame that no case takes carries a command byte without a meaning (R86). -/
theorem undefined_of_decodeFrame {rs : Bit} {b : Byte} {e : DecodeError} (h : decodeFrame (rs ++ b) = .error e) :
    rs = Config.rsCmd ∧ b.msb = false ∧ b ∉ [0x01#8, 0x02#8, 0x06#8, 0x08#8, 0x0C#8, 0x28#8] := by
  simp only [decodeFrame, Observer.frameRs_append, Observer.frameByte_append] at h
  repeat' split at h
  all_goals cases h
  refine ⟨(level_cases rs).resolve_left ‹_›, ?_⟩
  simp_all

/-- What the observer answers to a transfer while it is active is all that the transfer does (R81). -/
theorem observe_eq_take {f : Display → Display} {rs : Bit} {b : Byte} {s : State}
    (h : s.disp.active = true → s.disp.take s.cfg.nCols rs b = f s.disp) :
    observe f s = s.withDisplay (s.disp.take s.cfg.nCols rs b) := by
  cases ha : s.disp.active with
  | true => rw [Observer.observe_of_active f ha, h ha]
  | false => simp [observe, ha, Display.take_inactive ha, State.withDisplay]

/-- Settles O8: the frame of a level and a byte is that of a data byte or of a command byte. -/
theorem framesAreDisplayInstructions : Obligations.FramesAreDisplayInstructions := by
  refine ⟨fun f i h => ?_, fun rs b i s h => ?_, fun rs b e s h ha => ?_⟩
  · have hfields : frameRs f ++ frameByte f = f := BitVec.extractLsb'_append_extractLsb'
    rw [← hfields] at h ⊢
    obtain hrs | hrs := level_cases (frameRs f)
    · rw [hrs, decodeFrame_data] at h
      cases h
      rw [hrs, encodeFrame]
    · rw [hrs] at h ⊢
      obtain ⟨hframe, -⟩ := command_of_decodeFrame h
      exact hframe
  · obtain rfl | rfl := level_cases rs
    · rw [decodeFrame_data] at h
      cases h
      exact congrArg Host.Outcome.next (observe_eq_take Display.take_data)
    · obtain ⟨-, hexec⟩ := command_of_decodeFrame h
      rw [hexec, observe_eq_take Display.take_command]
  · obtain ⟨rfl, hmsb, hb⟩ := undefined_of_decodeFrame h
    exact (Display.take_command ha).trans (Observer.command_of_undefined s.disp hmsb hb)

/-! ## The active observer -/

/-- Settles O39: the memory is filled with blanks, which is canonical. -/
theorem clearHomeBlanksEveryCell : Obligations.ClearHomeBlanksEveryCell := fun _ ha =>
  ⟨Memory.fill Config.blank, congrArg Host.Outcome.next (Observer.observe_of_active Display.clearHome ha),
    Memory.wf_fill _, fun a h => (Memory.read_fill _ a).trans (if_pos h)⟩

/-- The visible addresses are the columns of the two lines (R62). -/
theorem visible_iff {nCols : Nat} {a : DispAddr} :
    visible nCols a = true ↔ a.toNat < nCols ∨ (40 ≤ a.toNat ∧ a.toNat < 40 + nCols) := by
  simp [visible, Config.line2Addr]

/-- A known, visible cursor is where a data byte goes (R84). -/
theorem target_of_visible {nCols : Nat} {d : Display} {a : DispAddr} (hcur : d.cur = some a)
    (hvis : visible nCols a = true) : d.target nCols = some a := by
  simp [Display.target, hcur, hvis]

/-- With the cursor unknown or not visible a data byte goes nowhere (R84). -/
theorem target_of_hidden {nCols : Nat} {d : Display}
    (h : d.cur = none ∨ ∃ a, d.cur = some a ∧ ¬ visible nCols a = true) : d.target nCols = none := by
  obtain hcur | ⟨a, hcur, hvis⟩ := h
  · simp [Display.target, hcur]
  · simp [Display.target, hcur, hvis]

/-- A data byte reaching an active observer (R84). -/
theorem exec_lcdData_of_active (c : Byte) {s : State} (ha : s.disp.active = true) :
    exec (.lcdData c) s = .next (s.withDisplay (s.disp.putData s.cfg.nCols c)) :=
  congrArg Host.Outcome.next (Observer.observe_of_active _ ha)

/-- Settles O41: the two cases are those of the target of a data byte. -/
theorem dataByteIsStoredAtAVisibleCursor : Obligations.DataByteIsStoredAtAVisibleCursor := by
  intro c s ha
  rw [exec_lcdData_of_active c ha]
  refine ⟨fun a hcur hvis => ?_, fun h => ?_⟩
  · have htarget := target_of_visible hcur (visible_iff.mpr hvis)
    exact ⟨Memory.write a.toNat c s.disp.cells, by rw [Display.putData_visible c htarget]; rfl,
      Memory.read_write_same _ _ _, fun b hb => Memory.read_write_other _ _ _ hb⟩
  · simp only [← visible_iff] at h
    rw [Display.putData_hidden c (target_of_hidden h)]

/-! ## The inactive observer -/

/-- What reaches an inactive observer is ignored (R81). -/
theorem observe_of_inactive {s : State} (f : Display → Display) (h : s.disp.active = false) : observe f s = s := by
  simp [observe, h]

/-- Settles O43: each of these instructions is a reaction of the observer. -/
theorem inactiveObserverIgnoresEverything : Obligations.InactiveObserverIgnoresEverything := by
  intro s i ha hi
  have ignored (f : Display → Display) : (.next (observe f s) : Result) = .next s :=
    congrArg Host.Outcome.next (observe_of_inactive f ha)
  obtain hnamed | ⟨a, rfl⟩ | ⟨c, rfl⟩ := hi
  · simp only [List.mem_cons, List.not_mem_nil, or_false] at hnamed
    obtain rfl | rfl | rfl | rfl | rfl | rfl := hnamed <;> exact ignored _
  · exact ignored _
  · exact ignored _

end Sys2Proof.Proofs.Controller

/-! Family `other`, the display operations: the byte transfer (O12) and what each operation sends (O13 to O18, O21, O22,
O30), what `CLR2` leaves on the display (O19), the text of the voltage (O31), the reserved words (O38). -/

namespace Sys2Proof.Proofs.Transfers

open Sys2Proof Sys2Proof.Machine

/-! ## One byte -/

/-- Settles O12: the hold of each pulse is `T_STROBE_HOLD`, the settle `T_BYTE_SETTLE` (R257). -/
theorem byteTransfer : Obligations.ByteTransfer := fun _ _ _ => rfl

/-- One byte sent by an operation in a ready state below the top of the store (R123, R124, R36). -/
theorem ifReady_advance_writeByte (rs : Bit) (b : Byte) {s : State} (hdrv : s.drv = .ready) (hpc : s.pc ≠ 15#4) :
    ifReady s (advance (writeByte rs b s)) =
      .next { s with rs := rs, d := b.extractLsb' 0 4, e := 1#1, trace := s.trace ++ tenEvents rs b,
                     disp := s.disp.take s.cfg.nCols rs b, pc := s.pc + 1#4 } :=
  (ifReady_eq hdrv).trans (advance_eq (s := writeByte rs b s) hpc)

/-- Settles O13: `WCMD` is the one byte of `ifReady_advance_writeByte` at the command level. -/
theorem wcmdSendsOneCommandByte : Obligations.WcmdSendsOneCommandByte := fun b _ hdrv hpc =>
  ifReady_advance_writeByte Config.rsCmd b hdrv hpc

/-- Settles O14: `WDAT` is the one byte of `ifReady_advance_writeByte` at the data level. -/
theorem wdatSendsOneDataByte : Obligations.WdatSendsOneDataByte := fun b _ hdrv hpc =>
  ifReady_advance_writeByte Config.rsData b hdrv hpc

/-- Settles O15: the 2 ms come after the byte's own settle. -/
theorem clearSendsClearHomeAndWaits : Obligations.ClearSendsClearHomeAndWaits := fun s hdrv hpc =>
  (ifReady_eq hdrv).trans (advance_eq (s := delay Config.tClear (writeByte Config.rsCmd 0x01#8 s)) hpc)

/-! ## GOTO -/

/-- The set-cursor byte of an address, as a number and bit by bit (R94). -/
theorem setCursorByte_bits : ∀ a : DispAddr, setCursorByte a = BitVec.ofNat 8 (0x80 + a.toNat) ∧
    (setCursorByte a).msb = true ∧ (setCursorByte a).extractLsb' 0 7 = a ∧
    (setCursorByte a).extractLsb' 0 4 = a.extractLsb' 0 4 := by decide

/-- The set-cursor byte of an address moves the cursor of an active observer there (R83). -/
theorem take_setCursorByte (nCols : Nat) (a : DispAddr) (d : Display) :
    d.take nCols Config.rsCmd (setCursorByte a) = if d.active then { d with cur := some a } else d := by
  obtain ⟨-, hmsb, haddr, -⟩ := setCursorByte_bits a
  by_cases ha : d.active = true
  · rw [if_pos ha, Display.take_command ha, Display.command, if_pos hmsb, haddr]
    rfl
  · rw [if_neg ha, Display.take_inactive (Bool.not_eq_true _ ▸ ha)]

/-- Settles O16: the low nibble and the cursor are those of the address; `GOTO2` is the case 40. -/
theorem gotoSendsTheSetCursorByte : Obligations.GotoSendsTheSetCursorByte := by
  have hgoto (a : DispAddr) (s : State) (hdrv : s.drv = .ready) (hpc : s.pc ≠ 15#4) :
      ifReady s (advance (writeByte Config.rsCmd (setCursorByte a) s)) =
        .next { s with rs := 0#1, d := a.extractLsb' 0 4, e := 1#1,
                       trace := s.trace ++ tenEvents 0#1 (BitVec.ofNat 8 (0x80 + a.toNat)),
                       disp := if s.disp.active then { s.disp with cur := some a } else s.disp,
                       pc := s.pc + 1#4 } := by
    obtain ⟨hbyte, -, -, hlow⟩ := setCursorByte_bits a
    rw [ifReady_advance_writeByte _ _ hdrv hpc, take_setCursorByte, hlow, hbyte]
    rfl
  exact ⟨hgoto, hgoto Config.line2Addr⟩

/-! ## INIT -/

/-- `INIT` completes in every uninitialized state below the top of the store (R140, R36). -/
theorem exec_init_completes {s : State} (hdrv : s.drv = .uninitialized) (hpc : s.pc ≠ 15#4) :
    ∃ t, exec .init s = .next t := by
  have hsame : (sendCommands modeCommands (resetPhase s)).pc = s.pc := by
    rw [sendCommands_eq_sendBytes, sendBytes_eq, resetPhase_pc]
  exact ⟨_, (Exceptions.ifUninitialized_eq hdrv).trans (advance_eq (by simpa [hsame] using hpc))⟩

/-- Settles O17: an uninitialized driver has an inactive observer, which ignores the mode bytes and is then started. -/
theorem initRunsTheResetSequence : Obligations.InitRunsTheResetSequence := by
  intro s hdrv hok hpc
  have hinactive : s.disp.active = false := by
    rw [← Bool.not_eq_true]
    exact fun ha => nomatch hdrv.symm.trans (hok.mp ha)
  obtain ⟨t, h⟩ := exec_init_completes hdrv hpc
  obtain ⟨-, rfl⟩ := init_next h
  rw [h, Display.takeAll_inactive _ hinactive, List.append_assoc]
  rfl

/-! ## CLR2 -/

/-- Settles O18: `CLR2` completes by `Lcd.exec_clr2`; its events are those of its transfers one after the other. -/
theorem clr2SendsBlanksBetweenTwoGotos : Obligations.Clr2SendsBlanksBetweenTwoGotos := by
  intro s hdrv hpc
  have hevents : transferEvents (clr2Transfers s.cfg.nCols) = tenEvents 0#1 0xA8#8
      ++ (List.replicate s.cfg.nCols (tenEvents 1#1 0x20#8)).flatten ++ tenEvents 0#1 0xA8#8 := by
    simp [transferEvents, clr2Transfers, byteEvents_eq_ten]
  rw [Lcd.exec_clr2 hdrv hpc, Lcd.afterClr2, hevents]
  rfl

/-- Settles O19: what the transfers of `CLR2` leave on the display is `Lcd.takeAll_clr2Transfers`. -/
theorem clr2BlanksLineTwoOnly : Obligations.Clr2BlanksLineTwoOnly := by
  intro s hdrv hpc ha hp hcfg
  obtain ⟨cells, hdisp, hread⟩ := Lcd.takeAll_clr2Transfers (Lcd.nCols_le_of_wf hcfg) ha hp
  have hleft : (Lcd.afterClr2 s).disp = { s.disp with cur := some 40#7, cells := cells } := hdisp
  refine ⟨Lcd.afterClr2 s, Lcd.exec_clr2 hdrv hpc, ?_⟩
  rw [hleft]
  exact ⟨rfl, hp, ha, rfl, fun a hlo hhi => (hread a).trans (if_pos ⟨hlo, hhi⟩),
    fun a hout => (hread a).trans (if_neg hout)⟩

/-! ## PUTS -/

/-- The events of data bytes are the ten of each (R122). -/
theorem sendText_trace (text : List Byte) (s : State) :
    (sendText text s).trace = s.trace ++ (text.map (tenEvents 1#1)).flatten := by
  rw [sendText_eq_sendBytes, sendBytes_eq]
  rfl

/-- Text with a last character: the lines are left by it, the trace and the display take every one (R122, R143). -/
theorem sendText_of_getLast {text : List Byte} {c : Byte} (hlast : text.getLast? = some c) (s : State) :
    sendText text s =
      { s with rs := 1#1, d := c.extractLsb' 0 4, e := 1#1,
               trace := s.trace ++ (text.map (tenEvents 1#1)).flatten,
               disp := s.disp.takeAll s.cfg.nCols (text.map fun c => (1#1, c)) } := by
  have hne : text ≠ [] := by rintro rfl; cases hlast
  rw [sendText_eq_sendBytes, sendBytes_eq, hlast, if_neg hne, if_neg hne]
  rfl

/-- Settles O21: below the top of the store the words are the sent text with `pc` moved on. -/
theorem putsSendsEachCharacterInOrder : Obligations.PutsSendsEachCharacterInOrder := by
  intro text s hdrv hfit
  refine ⟨_, (ifReady_eq hdrv).trans (wdatEach_eq text s hfit), sendText_trace text s, Sequencer.sendText_disp text s, rfl,
    ?_, fun c hlast => ?_⟩
  · rintro rfl
    simp [sendText]
  · rw [sendText_of_getLast hlast]
    exact ⟨rfl, rfl, rfl⟩

/-- Words that run past the top of the store are refused at the top, after the characters of those that fit (R143, R36). -/
theorem wdatEach_past_top {text : List Byte} {s : State} (hpast : 16 ≤ s.pc.toNat + text.length) :
    ∃ last, wdatEach text s = .refused (.pcPastEndOfProgramStore last) ∧ last.pc = 15#4 ∧
      last.trace = s.trace ++ ((text.take (16 - s.pc.toNat)).map (tenEvents 1#1)).flatten := by
  induction text generalizing s with
  | nil => exact absurd hpast (Nat.not_le_of_lt s.pc.isLt)
  | cons c text ih =>
    rw [wdatEach]
    by_cases hpc : s.pc = 15#4
    · rw [advance_top (s := writeByte Config.rsData c s) hpc]
      exact ⟨_, rfl, hpc, by simp [hpc, byteEvents_eq_ten, Config.rsData]⟩
    · rw [advance_eq (s := writeByte Config.rsData c s) hpc]
      have hsucc : (s.pc + 1#4).toNat = s.pc.toNat + 1 := by bv_omega
      have hleft : 16 - s.pc.toNat = 16 - (s.pc + 1#4).toNat + 1 := by omega
      rw [List.length_cons] at hpast
      obtain ⟨last, hrefused, htop, htrace⟩ :=
        ih (s := { writeByte Config.rsData c s with pc := s.pc + 1#4 }) (by simp only [hsucc]; omega)
      refine ⟨last, hrefused, htop, htrace.trans ?_⟩
      simp [hleft, byteEvents_eq_ten, Config.rsData]

/-- Settles O22: with the driver ready the text is its words, which `wdatEach_past_top` follows to the refusal. -/
theorem putsPastTheTopStopsAfterItsEvents : Obligations.PutsPastTheTopStopsAfterItsEvents := by
  intro text s hdrv hpast _
  obtain ⟨last, hrefused, hlast⟩ := wdatEach_past_top hpast
  exact ⟨last, (ifReady_eq hdrv).trans hrefused, hlast⟩

/-! ## RENDER -/

/-- A digit's byte is its code, far below the end of the byte (R95). -/
theorem toNat_digitByte {d : Nat} (h : d ≤ 15) : (digitByte d).toNat = 0x30 + d := by
  rw [digitByte, BitVec.toNat_add, BitVec.toNat_ofNat, BitVec.toNat_ofNat]
  omega

/-- The seven characters as numbers (R181). -/
theorem map_toNat_text7 (o : BitVec 4) (m : BitVec 10) :
    (text7 o m).map BitVec.toNat =
      [0x30 + o.toNat, 0x2E, 0x30 + m.toNat / 100, 0x30 + m.toNat / 10 % 10, 0x30 + m.toNat % 10, 0x20, 0x56] := by
  have ho : o.toNat ≤ 15 := Nat.le_of_lt_succ o.isLt
  have hm : m.toNat < 1024 := m.isLt
  simp only [text7, decmText, List.cons_append, List.nil_append, List.map_cons, List.map_nil]
  rw [toNat_digitByte ho, toNat_digitByte (by omega), toNat_digitByte (by omega), toNat_digitByte (by omega)]
  rfl

/-- Settles O30: the text is that of `RENDER`, whose last character leaves the lines. -/
theorem renderSendsSevenCharacters : Obligations.RenderSendsSevenCharacters := by
  intro s o m hdrv ho hm hpc
  refine ⟨text7 o m, map_toNat_text7 o m, ?_⟩
  have hlast : (text7 o m).getLast? = some voltByte := rfl
  rw [Sequencer.exec_render hdrv ho hm hpc, sendText_of_getLast hlast]
  rfl

/-- Settles O31: the bytes of the digits are their codes, and the digits of a number below 1000 give it back. -/
theorem fractionIsZeroPaddedToThreeDigits : Obligations.FractionIsZeroPaddedToThreeDigits := by
  intro o m ho hm
  have hones : 0x30#8 + o.zeroExtend 8 = digitByte o.toNat := by
    rw [digitByte]; bv_omega
  have hh := toNat_digitByte (d := m.toNat / 100) (by omega)
  have ht := toNat_digitByte (d := m.toNat / 10 % 10) (by omega)
  have hu := toNat_digitByte (d := m.toNat % 10) (by omega)
  have ho' := toNat_digitByte (d := o.toNat) (by omega)
  rw [hones]
  refine ⟨rfl, _, _, _, rfl, ?_, by omega⟩
  simp only [List.mem_cons, List.not_mem_nil, or_false, forall_eq_or_imp, forall_eq]
  omega

/-! ## Reserved words -/

/-- Settles O38: each of the four is reserved. -/
theorem reservedWordsAreRefused : Obligations.ReservedWordsAreRefused := fun _ s =>
  ⟨Sequencer.exec_of_reserved s rfl, Sequencer.exec_of_reserved s rfl, Sequencer.exec_of_reserved s rfl,
    Sequencer.exec_of_reserved s rfl⟩

end Sys2Proof.Proofs.Transfers

/-! Family `other`, the frames: what the operations beside the display leave of it (O44), what the display operations leave
of the rest (O45), and which cells they leave (O46). -/

namespace Sys2Proof.Proofs.Unchanged

open Sys2Proof Sys2Proof.Machine

/-! ## Registers -/

/-- The operations beside the display leave the display, its lines and the driver state (R163, R175, R197 to R199). -/
theorem exec_keeps_lines {i : Instr} {s t : State}
    (hi : i ∈ [Instr.sample, .format, .wait, .liveoff, .liveon, .loop] ∨ (∃ v, i = .live v) ∨ (∃ a, i = .jmp a))
    (h : exec i s = .next t) : t.rs = s.rs ∧ t.e = s.e ∧ t.d = s.d ∧ t.drv = s.drv ∧ t.disp = s.disp := by
  have live {v : Bit} (h : advance (driveLive v s) = .next t) :
      t.rs = s.rs ∧ t.e = s.e ∧ t.d = s.d ∧ t.drv = s.drv ∧ t.disp = s.disp := by
    rw [live_next h]; exact ⟨rfl, rfl, rfl, rfl, rfl⟩
  obtain hnamed | ⟨v, rfl⟩ | ⟨a, rfl⟩ := hi
  · simp only [List.mem_cons, List.not_mem_nil, or_false] at hnamed
    obtain rfl | rfl | rfl | rfl | rfl | rfl := hnamed
    · obtain ⟨_, _, rfl, _⟩ | ⟨_, _, _, _, rfl⟩ | ⟨_, _, _, rfl, _⟩ := sample_next h <;> exact ⟨rfl, rfl, rfl, rfl, rfl⟩
    · obtain ⟨_, _, rfl⟩ := format_next h; exact ⟨rfl, rfl, rfl, rfl, rfl⟩
    · rw [wait_next h]; exact ⟨rfl, rfl, rfl, rfl, rfl⟩
    · exact live h
    · exact live h
    · cases h; exact ⟨rfl, rfl, rfl, rfl, rfl⟩
  · exact live h
  · cases h; exact ⟨rfl, rfl, rfl, rfl, rfl⟩

/-- Settles O44: the display's end of the state by `exec_keeps_lines`, the registers by their writers. -/
theorem nonDisplayOperationsFrame : Obligations.NonDisplayOperationsFrame := by
  intro i s t hi h
  obtain ⟨hrs, he, hd, hdrv, hdisp⟩ := exec_keeps_lines hi h
  obtain ⟨hcfg, hrom⟩ := Scope.did_keeps_cfg_rom (exec_did h)
  obtain ⟨hsampler, hdigits, hlive, -⟩ := Whole.did_keeps (exec_did h)
  exact ⟨⟨hrs, he, hd, hdrv, hdisp, fun a => by rw [hdisp], hcfg, hrom⟩, hsampler, hdigits, hlive⟩

/-- Settles O45: none of these operations is the writer of a register that it must leave. -/
theorem displayOperationsFrame : Obligations.DisplayOperationsFrame := by
  intro i s t hi h
  have hother : i ≠ .sample ∧ i ≠ .format ∧ i ≠ .liveoff ∧ i ≠ .liveon ∧ ∀ v, i ≠ .live v := by
    obtain hnamed | ⟨a, rfl⟩ | ⟨b, rfl | rfl⟩ | ⟨text, rfl⟩ | ⟨n, rfl⟩ | ⟨rs, b, rfl⟩ := hi
    · simp only [List.mem_cons, List.not_mem_nil, or_false] at hnamed
      obtain rfl | rfl | rfl | rfl | rfl | rfl := hnamed <;> simp
    all_goals simp
  obtain ⟨hsample, hformat, hoff, hon, hlv⟩ := hother
  obtain ⟨hcfg, hrom⟩ := Scope.did_keeps_cfg_rom (exec_did h)
  obtain ⟨hsampler, hdigits, hlive, hdrv⟩ := Whole.did_keeps (exec_did h)
  obtain ⟨hraw, hch, href, hconv, hphase, henv⟩ := hsampler hsample
  obtain ⟨hscaled, hones, hdecm⟩ := hdigits hformat
  exact ⟨hraw, hscaled, hones, hdecm, hlive hoff hon hlv, hch, href, hconv, hphase, henv, hcfg, hrom, hdrv⟩

/-! ## Cells -/

/-- A command byte other than the clear command leaves every cell (R83, R85, R86). -/
theorem take_command_cell {nCols : Nat} {b : Byte} (hb : b ≠ 0x01#8) (d : Display) (a : Nat) :
    (d.take nCols Config.rsCmd b).cell a = d.cell a := by
  cases ha : d.active with
  | false => rw [Display.take_inactive ha]
  | true => rw [Display.take_command ha, Display.cell, Display.command_cells d hb, Display.cell]

/-- A data byte leaves every cell but the one at its target (R84). -/
theorem take_data_cell {nCols : Nat} {c : Byte} {d : Display} {a : Nat}
    (hother : ∀ x, d.target nCols = some x → a ≠ x.toNat) : (d.take nCols Config.rsData c).cell a = d.cell a := by
  cases ha : d.active with
  | false => rw [Display.take_inactive ha]
  | true =>
    rw [Display.take_data ha]
    cases htarget : d.target nCols with
    | none => rw [Display.putData_hidden c htarget]; rfl
    | some x =>
      rw [Display.putData_visible c htarget]
      exact Memory.read_write_other _ _ _ (hother x htarget)

/-- A data byte leaves the cursor, makes it unknown, or moves it on by one (R84). -/
theorem take_data_cur {nCols : Nat} {c : Byte} {d : Display} {x : DispAddr}
    (hcur : (d.take nCols Config.rsData c).cur = some x) :
    d.cur = some x ∨ ∃ y, d.cur = some y ∧ x.toNat = y.toNat + 1 := by
  cases ha : d.active with
  | false => rw [Display.take_inactive ha] at hcur; exact .inl hcur
  | true =>
    rw [Display.take_data ha] at hcur
    cases htarget : d.target nCols with
    | none => rw [Display.putData_hidden c htarget] at hcur; exact .inl hcur
    | some y =>
      rw [Display.putData_visible c htarget] at hcur
      refine .inr ⟨y, Display.cur_of_target htarget, ?_⟩
      simp only [cursorAfter] at hcur
      split at hcur
      · cases hcur; bv_omega
      · cases hcur

/-- Data bytes one after the other leave every cell but as many as they are, from the cursor on (R84). -/
theorem takeAll_data_cell {nCols : Nat} {text : List Byte} {d : Display} {a : Nat}
    (hout : ∀ c, d.cur = some c → a < c.toNat ∨ c.toNat + text.length ≤ a) :
    (d.takeAll nCols (text.map fun c => (1#1, c))).cell a = d.cell a := by
  induction text generalizing d with
  | nil => rfl
  | cons c text ih =>
    rw [List.length_cons] at hout
    rw [List.map_cons, Display.takeAll_cons, ih fun x hx => ?_]
    · refine take_data_cell fun x hx => ?_
      have hfar := hout x (Display.cur_of_target hx)
      omega
    · obtain hcur | ⟨y, hcur, hnext⟩ := take_data_cur hx
      · have hfar := hout x hcur
        omega
      · have hfar := hout y hcur
        omega

/-- The transfers of `CLR2` leave every cell outside line 2, whatever the display (R144). -/
theorem takeAll_clr2Transfers_cell {nCols : Nat} {a : Nat} (hout : ¬ (40 ≤ a ∧ a < 40 + nCols)) (d : Display) :
    (d.takeAll nCols (clr2Transfers nCols)).cell a = d.cell a := by
  cases ha : d.active with
  | false => rw [Display.takeAll_inactive _ ha]
  | true =>
    have hline2 : (0xA8#8 : Byte) ≠ 0x01#8 := by decide
    have hblanks : ((d.setCursor 40#7).takeAll nCols (List.replicate nCols (1#1, 0x20#8))).cell a = d.cell a := by
      have h := takeAll_data_cell (nCols := nCols) (text := List.replicate nCols 0x20#8) (d := d.setCursor 40#7) (a := a)
        fun c hc => by cases hc; rw [List.length_replicate, BitVec.toNat_ofNat]; omega
      rw [List.map_replicate] at h
      exact h
    rw [clr2Transfers, Display.takeAll_cons, Lcd.take_line2Address nCols ha, Display.takeAll_append]
    exact (take_command_cell hline2 _ a).trans hblanks

/-! ## The display after an operation -/

/-- A state that follows by advancing has the display of the state before the advance. -/
theorem disp_of_ifReady_advance {s u t : State} (h : ifReady s (advance u) = .next t) : t.disp = u.disp := by
  obtain ⟨-, h⟩ := ifReady_next h
  obtain ⟨-, rfl⟩ := advance_next h
  rfl

theorem puts_disp {text : List Byte} {s t : State} (h : exec (.puts text) s = .next t) :
    t.disp = s.disp.takeAll s.cfg.nCols (text.map fun c => (1#1, c)) := by
  obtain ⟨-, h⟩ := ifReady_next h
  obtain ⟨_, _, _, _, rfl, -⟩ := sends_wdatEach text s t h
  rfl

theorem render_disp {s t : State} (h : exec .render s = .next t) :
    ∃ text : List Byte, text.length = 7 ∧ t.disp = s.disp.takeAll s.cfg.nCols (text.map fun c => (1#1, c)) := by
  obtain ⟨-, h⟩ := ifReady_next h
  obtain ⟨o, -, h⟩ := withValue_next h
  obtain ⟨m, -, h⟩ := withValue_next h
  obtain ⟨-, rfl⟩ := advance_next h
  exact ⟨text7 o m, rfl, Sequencer.sendText_disp _ s⟩

theorem clr2_disp {s t : State} (h : exec .clr2 s = .next t) :
    t.disp = s.disp.takeAll s.cfg.nCols (clr2Transfers s.cfg.nCols) := by
  rw [disp_of_ifReady_advance h]
  obtain ⟨_, _, _, _, hsent, -⟩ := sends_blankLine2 s
  rw [hsent]

theorem setCursorByte_ne_clear : ∀ a : DispAddr, setCursorByte a ≠ 0x01#8 := by decide

/-- The operations of one command byte other than the clear command, and the micro-operations below a byte. -/
theorem command_keeps_cell {i : Instr} {s t : State}
    (hi : i ∈ [Instr.goto2, .strobe] ∨ (∃ a, i = .goto a) ∨ (∃ n, i = .nib n) ∨
      (∃ b, b ≠ 0x01#8 ∧ (i = .wcmd b ∨ i = .wbyte 0#1 b))) (h : exec i s = .next t) (a : Nat) :
    t.disp.cell a = s.disp.cell a := by
  have sent {b : Byte} (hb : b ≠ 0x01#8) (h : ifReady s (advance (writeByte Config.rsCmd b s)) = .next t) :
      t.disp.cell a = s.disp.cell a := by
    rw [disp_of_ifReady_advance h]; exact take_command_cell hb s.disp a
  obtain hnamed | ⟨x, rfl⟩ | ⟨n, rfl⟩ | ⟨b, hb, rfl | rfl⟩ := hi
  · simp only [List.mem_cons, List.not_mem_nil, or_false] at hnamed
    obtain rfl | rfl := hnamed
    · exact sent (setCursorByte_ne_clear _) h
    · cases h; rfl
  · exact sent (setCursorByte_ne_clear x) h
  · cases h; rfl
  · exact sent hb h
  · cases h; exact take_command_cell hb s.disp a

/-- The operations of one data byte. -/
theorem data_keeps_cell {i : Instr} {s t : State} (hi : ∃ c, i = .wdat c ∨ i = .wbyte 1#1 c) (h : exec i s = .next t)
    {a : Nat} (hother : ∀ x, s.disp.target s.cfg.nCols = some x → a ≠ x.toNat) : t.disp.cell a = s.disp.cell a := by
  obtain ⟨c, rfl | rfl⟩ := hi
  · rw [disp_of_ifReady_advance h]; exact take_data_cell hother
  · cases h; exact take_data_cell hother

/-- Settles O46: one command byte, one data byte, the transfers of `CLR2`, and text. -/
theorem displayCellsFrame : Obligations.DisplayCellsFrame := by
  refine fun s t => ⟨fun i hi h => command_keeps_cell hi h, fun i hi h a hother => data_keeps_cell hi h hother,
    fun _ h a hout => ?_, fun i k hi h a hout => ?_⟩
  · rw [clr2_disp h]; exact takeAll_clr2Transfers_cell hout s.disp
  · obtain ⟨text, rfl, rfl⟩ | ⟨rfl, rfl⟩ := hi
    · rw [puts_disp h]; exact takeAll_data_cell hout
    · obtain ⟨text, hseven, hdisp⟩ := render_disp h
      rw [hdisp]; exact takeAll_data_cell (by rwa [hseven])

end Sys2Proof.Proofs.Unchanged
